-- ==== Sys2Proof/Word.lean ====
section
/-! DEFINITION. The word types of the block (spec/00_scope.md R12: every register has a stated width).
The registers whose width is a parameter (CNT_W, LEN_W, R7) are natural numbers below the power of two of their width: the
rules compute with them modulo that power (R116, R117) or as unbounded numbers (R49). -/

namespace Sys2Proof

/-- A byte: 8 bits (R12). -/
abbrev Byte := BitVec 8

/-- The 16-bit check value and the CRC accumulator (R21, R100). -/
abbrev Check := BitVec 16

end Sys2Proof
end

