-- ==== Sys2Proof/Config.lean ====
section
/-! DEFINITION. The constants the spec fixes (spec/00_scope.md R6, spec/30_encoding.md R75), the parameters it leaves
open (R7), and the free values (notes/assumptions/11.md). -/

namespace Sys2Proof.Config

/-! ## Constants of R6 -/

/-- SIZE_SHORT: payload bytes of a start-128 packet. -/
def sizeShort : Nat := 128
/-- SIZE_LONG: payload bytes of a start-1024 packet. -/
def sizeLong : Nat := 1024
/-- BODY_EXTRA: body bytes besides the payload. -/
def bodyExtra : Nat := 4
/-- PKT_BUF_LEN. -/
def pktBufLen : Nat := 1029
/-- RING_CAP. -/
def ringCap : Nat := 4096
/-- TOL_HANDSHAKE: the cancel tolerance Phase A passes. -/
def tolHandshake : BitVec 2 := 3
/-- TOL_DATA: the cancel tolerance Phase B passes. -/
def tolData : BitVec 2 := 0
/-- TOL_TERM: the cancel tolerance Phase C passes. -/
def tolTerm : BitVec 2 := 0
/-- SEQ_INIT: the first expected data sequence number. -/
def seqInit : Byte := 1
/-- ABORT_CAN_N: cancel bytes of the abort procedure. -/
def abortCanN : Nat := 4
/-- ABORT_BS_N: backspace bytes of the abort procedure. -/
def abortBsN : Nat := 4
/-- CRC_POLY: x^16 + x^12 + x^5 + 1, top term implicit. -/
def crcPoly : Check := 0x1021
/-- CRC_INIT. -/
def crcInit : Check := 0x0000

/-! ## Control bytes of R75 -/

def byteSOH : Byte := 0x01
def byteSTX : Byte := 0x02
def byteEOT : Byte := 0x04
def byteACK : Byte := 0x06
def byteBS : Byte := 0x08
def byteNAK : Byte := 0x15
def byteCAN : Byte := 0x18
/-- 'C'; the code is general knowledge the spec supplies (R14, G2). -/
def byteCRQ : Byte := 0x43
/-- The space that ends the declared length (R82, G2). -/
def byteSpace : Byte := 0x20
/-- '0' (R83, G2). -/
def byteDigit0 : Byte := 0x30
/-- '9' (R83, G2). -/
def byteDigit9 : Byte := 0x39

/-! ## Open parameters of R7

The spec gives them no value, so they have no body here. State carries the parameters of a machine in its field `par`;
these constants are what State.reset puts there (notes/assumptions/8.md). -/

/-- The default of CNT_W (D5). -/
def defaultCntW : Nat := 32
/-- The default of LEN_W (D6). -/
def defaultLenW : Nat := 32
/-- CNT_HZ: counter ticks per second (D5, OPEN). Its range is that in which half of it, rounded, is below
`2^(CNT_W - 1)` at the default CNT_W (R7). -/
opaque cntHz : Fin 4294967295
/-- DEST_CAP: capacity of the destination buffer, at most `2^LEN_W - 1` at the default LEN_W (D7, OPEN). -/
opaque destCap : Fin 4294967296
/-- HWFIFO_DEPTH less one: the depth is at least 1 (D8, OPEN). -/
opaque fifoExtra : Nat

/-! ## Free values

Each is applied to the counter State.free: what `start` leaves "unspecified" (R47, column "after session start";
notes/assumptions/11.md), and the bytes beyond a payload shorter than its size (notes/assumptions/31.md). -/

/-- A free code of OUTCOME. -/
opaque freeOutcomeCode : Nat → Fin 5
/-- A free PKT_IDX within its range 0..1029 (R31). -/
opaque freePktIdx : Nat → Fin 1030
/-- A free TOL_REM (2 bits, R32). -/
opaque freeTolRem : Nat → BitVec 2
/-- A free choice between the two legal values of PKT_SIZE (R34). -/
opaque freePktSizeLong : Nat → Bool
/-- A free byte `i` places beyond the end of a payload. -/
opaque freeByte : Nat → Nat → Byte

end Sys2Proof.Config
end

