-- ==== Sys2Proof/Syntax.lean ====
section
/-! DEFINITION. The enumerations of the block and its ONE instruction type: one constructor per row of
spec/opcode_table.json (spec/30_encoding.md R93; the meaning of "instruction" here is spec/00_scope.md R8). -/

namespace Sys2Proof

/-- OUTCOME (spec/10_state.md R28; size 0 of `Ok` is unreachable, C2). -/
inductive RecvOutcome where
  | ok
  | endOfTransfer
  | abort
  | protocolError
  | timeout
  deriving DecidableEq, Repr

/-- FAIL_CAUSE (R29). -/
inductive FailCause where
  | none
  | hsProtocolError
  | hsAbort
  | hsBadHeader
  | hsLenExceedsCap
  | hsUnexpectedEot
  | dataShort
  | dataOverrun
  | dataProtocolError
  | dataAbort
  | dataTimeout
  | termUnexpectedPacket
  | termProtocolError
  | termTimeout
  | termAbort
  deriving DecidableEq, Repr

/-- PKT_SIZE: 128 or 1024 and no other value (R34, C2). -/
inductive PktSize where
  | short
  | long
  deriving DecidableEq, Repr

/-- PHASE (R33). -/
inductive Phase where
  | idle
  | a
  | b
  | c
  deriving DecidableEq, Repr

/-- RX_STATE (R30). -/
inductive RxState where
  | idle
  | tag
  | body
  | check
  deriving DecidableEq, Repr

/-- The instructions: one constructor per row of spec/opcode_table.json. -/
inductive Instr where
  -- TAG: received leading bytes (R76)
  | soh
  | stx
  | eot
  | can
  | illegal (b : Byte)
  -- TXCTL: transmitted control bytes (R90)
  | ack
  | nak
  | crq
  | canTx
  | bs
  -- TXSEQ: the fixed transmit sequence (R90, R178)
  | abortSeq
  -- OP: CRC16 (R100)
  | crc16 (bytes : List Byte)
  -- OP: Byte Receiver (R111 to R121)
  | ringPush (b : Byte)
  | ringPop
  | serviceRx
  | readByte (timeout : Nat)
  | writeByte (b : Byte)
  | discardInput
  -- OP: Packet Receiver (R130)
  | receive (tol : BitVec 2)
  -- OP: Session Controller
  | parseLen (payload : List Byte) (size : Nat)
  | phaseAAttempt
  | phaseBStep
  | phaseCStep
  | abortProcedure
  | report (cause : FailCause)
  | succeed (n : Nat)
  | fail (cause : FailCause)
  -- OP: boundary to the HOST and the platform (R190 to R196)
  | start (dest : Nat)
  | done
  | hwInit
  | reset
  -- BRANCH: Phase A (R152 to R161)
  | aOkSeq0
  | aHeaderAccepted
  | aHeaderMalformed
  | aLenExceedsCap
  | aProtocolError
  | aAbort
  | aOkSeqNonzero
  | aEndOfTransfer
  | aTimeout
  -- BRANCH: Phase B (R163 to R170)
  | bEotComplete
  | bEotShort
  | bOkWrongSeq
  | bOkOverrun
  | bOkAccept
  | bProtocolError
  | bAbort
  | bTimeout
  -- BRANCH: Phase C (R172 to R177)
  | cEndOfTransfer
  | cOk
  | cProtocolError
  | cTimeout
  | cAbort
  deriving DecidableEq, Repr

end Sys2Proof
end

