-- ==== Sys2Proof/WellFormed.lean ====
section
/-! DEFINITION. Which instruction terms are well formed: the ranges the spec gives their operands. The widths CNT_W and
LEN_W are parameters (R7), so they are arguments of the check. -/

namespace Sys2Proof

/-- Why a term is ill formed. -/
inductive IllFormed where
  /-- ILLEGAL carries one of the 252 bytes other than 0x01, 0x02, 0x04, 0x18 (R85). -/
  | legalTag
  /-- `read_byte`: `0 <= timeout < 2^(CNT_W - 1)` (R117). -/
  | timeoutTooLong
  /-- `parse_len(payload, size)`: the size is 128 or 1024 (R34, R83). -/
  | sizeNotAPacketSize
  /-- `parse_len(payload, size)`: the payload has `size` bytes (R83). -/
  | payloadLength
  /-- `succeed(n)`: `n` is a value of LEN_W bits (R37, R39). -/
  | lengthTooLong
  /-- `report` and `fail` name a cause, not NONE (R29, R212). -/
  | noCause
  deriving DecidableEq, Repr

/-- A byte that one of the four legal TAG rows matches (R76). -/
def legalTag (b : Byte) : Bool :=
  b == Config.byteSOH || b == Config.byteSTX || b == Config.byteEOT || b == Config.byteCAN

/-- The operand ranges, checked by name. -/
def Instr.check (cntW lenW : Nat) : Instr → Except IllFormed Unit
  | .illegal b => if legalTag b then .error .legalTag else .ok ()
  | .readByte t => if t < 2 ^ (cntW - 1) then .ok () else .error .timeoutTooLong
  | .parseLen p n =>
    if n = Config.sizeShort ∨ n = Config.sizeLong then
      if p.length = n then .ok () else .error .payloadLength
    else .error .sizeNotAPacketSize
  | .succeed n => if n < 2 ^ lenW then .ok () else .error .lengthTooLong
  | .report c => if c = .none then .error .noCause else .ok ()
  | .fail c => if c = .none then .error .noCause else .ok ()
  | .soh => .ok () | .stx => .ok () | .eot => .ok () | .can => .ok ()
  | .ack => .ok () | .nak => .ok () | .crq => .ok () | .canTx => .ok () | .bs => .ok ()
  | .abortSeq => .ok () | .crc16 _ => .ok ()
  | .ringPush _ => .ok () | .ringPop => .ok () | .serviceRx => .ok ()
  | .writeByte _ => .ok () | .discardInput => .ok () | .receive _ => .ok ()
  | .phaseAAttempt => .ok () | .phaseBStep => .ok () | .phaseCStep => .ok ()
  | .abortProcedure => .ok ()
  | .start _ => .ok () | .done => .ok () | .hwInit => .ok () | .reset => .ok ()
  | .aOkSeq0 => .ok () | .aHeaderAccepted => .ok () | .aHeaderMalformed => .ok ()
  | .aLenExceedsCap => .ok () | .aProtocolError => .ok () | .aAbort => .ok ()
  | .aOkSeqNonzero => .ok () | .aEndOfTransfer => .ok () | .aTimeout => .ok ()
  | .bEotComplete => .ok () | .bEotShort => .ok () | .bOkWrongSeq => .ok ()
  | .bOkOverrun => .ok () | .bOkAccept => .ok () | .bProtocolError => .ok ()
  | .bAbort => .ok () | .bTimeout => .ok ()
  | .cEndOfTransfer => .ok () | .cOk => .ok () | .cProtocolError => .ok ()
  | .cTimeout => .ok () | .cAbort => .ok ()

/-- Well formed: the check finds nothing. -/
def Instr.wf (cntW lenW : Nat) (i : Instr) : Bool :=
  match i.check cntW lenW with
  | .ok _ => true
  | .error _ => false

end Sys2Proof
end

