-- ==== Sys2Proof/Decode.lean ====
section
/-! DEFINITION. Decoding and encoding (spec/30_encoding.md): the leading byte (R76, R85), the transmitted control bytes
and their fixed sequence (R75, R90), and whole received units (R77 to R79). Rows of format OP and BRANCH have no bit
pattern (R93). -/

namespace Sys2Proof

/-- On which of the two serial streams a byte stands: one value may mean different things there (R75). -/
inductive Direction where
  | rx
  | tx
  deriving DecidableEq, Repr

/-- Why bytes are not decoded. -/
inductive Reject where
  /-- No byte. -/
  | noByte
  /-- Transmit direction: no TXCTL row has this value (R75). -/
  | notControl (b : Byte)
  /-- A whole unit was asked for and its leading byte is illegal (R85). -/
  | illegalTag (b : Byte)
  /-- A whole unit was asked for and its body is not complete (R88, R136). -/
  | shortBody
  deriving DecidableEq, Repr

/-- The leading byte: an exact match of the whole byte against four values, else ILLEGAL (R76, R85, R93). -/
def decodeLeading (b : Byte) : Instr :=
  if b = Config.byteSOH then .soh
  else if b = Config.byteSTX then .stx
  else if b = Config.byteEOT then .eot
  else if b = Config.byteCAN then .can
  else .illegal b

/-- A transmitted control byte (R75, format TXCTL). -/
def decodeControl (b : Byte) : Option Instr :=
  if b = Config.byteACK then some .ack
  else if b = Config.byteNAK then some .nak
  else if b = Config.byteCRQ then some .crq
  else if b = Config.byteCAN then some .canTx
  else if b = Config.byteBS then some .bs
  else none

/-- ABORTSEQ: four cancel bytes, four backspace bytes (R90, R178). -/
def abortSeqBytes : List Byte :=
  List.replicate Config.abortCanN Config.byteCAN ++ List.replicate Config.abortBsN Config.byteBS

/-- Decode the first instruction of a byte list in a direction; the rest of the list is left. -/
def decode : Direction → List Byte → Except Reject (Instr × List Byte)
  | _, [] => .error .noByte
  | .rx, b :: rest => .ok (decodeLeading b, rest)
  | .tx, b :: rest =>
    if (b :: rest).take abortSeqBytes.length = abortSeqBytes then
      .ok (.abortSeq, (b :: rest).drop abortSeqBytes.length)
    else
      match decodeControl b with
      | some i => .ok (i, rest)
      | none => .error (.notControl b)

/-- The words of an instruction and the direction they stand in; `none` for a row without a bit pattern (R93). -/
def encode : Instr → Option (Direction × List Byte)
  | .soh => some (.rx, [Config.byteSOH])
  | .stx => some (.rx, [Config.byteSTX])
  | .eot => some (.rx, [Config.byteEOT])
  | .can => some (.rx, [Config.byteCAN])
  | .illegal b => some (.rx, [b])
  | .ack => some (.tx, [Config.byteACK])
  | .nak => some (.tx, [Config.byteNAK])
  | .crq => some (.tx, [Config.byteCRQ])
  | .canTx => some (.tx, [Config.byteCAN])
  | .bs => some (.tx, [Config.byteBS])
  | .abortSeq => some (.tx, abortSeqBytes)
  | .crc16 _ => none | .ringPush _ => none | .ringPop => none | .serviceRx => none
  | .readByte _ => none | .writeByte _ => none | .discardInput => none | .receive _ => none
  | .parseLen _ _ => none | .phaseAAttempt => none | .phaseBStep => none | .phaseCStep => none
  | .abortProcedure => none | .report _ => none | .succeed _ => none | .fail _ => none
  | .start _ => none | .done => none | .hwInit => none | .reset => none
  | .aOkSeq0 => none | .aHeaderAccepted => none | .aHeaderMalformed => none
  | .aLenExceedsCap => none | .aProtocolError => none | .aAbort => none
  | .aOkSeqNonzero => none | .aEndOfTransfer => none | .aTimeout => none
  | .bEotComplete => none | .bEotShort => none | .bOkWrongSeq => none | .bOkOverrun => none
  | .bOkAccept => none | .bProtocolError => none | .bAbort => none | .bTimeout => none
  | .cEndOfTransfer => none | .cOk => none | .cProtocolError => none | .cTimeout => none
  | .cAbort => none

/-! ## Words as spec/opcode_table.json numbers them -/

/-- `n` bytes of `w`, the least significant first. That the first byte on the stream is the least significant one of a table
word is the model's choice (notes/assumptions/22.md): R93 gives a row of several bytes as a list, not as a number. -/
def tableBytes : Nat → Nat → List Byte
  | 0, _ => []
  | n + 1, w => BitVec.ofNat 8 w :: tableBytes n (w / 256)

/-- The instruction of a one-byte table word: a TAG row that matches the byte exactly, else the TXCTL row that does,
else the default row ILLEGAL (notes/assumptions/22.md). -/
def decodeTableByte (b : Byte) : Instr :=
  if legalTag b then decodeLeading b else (decodeControl b).getD (.illegal b)

/-- The instruction of an opcode-table word of `nbits` bits. -/
def decodeTableWord (nbits w : Nat) : Option Instr :=
  match tableBytes ((nbits + 7) / 8) w with
  | [] => none
  | [b] => some (decodeTableByte b)
  | b :: rest =>
    if b :: rest = abortSeqBytes then some .abortSeq
    else if legalTag b then some (decodeLeading b)
    else none

/-! ## Whole received units -/

/-- Payload bytes of a size (R6). -/
def PktSize.toNat : PktSize → Nat
  | .short => Config.sizeShort
  | .long => Config.sizeLong

/-- The tag that selects a size (R76). -/
def PktSize.tag : PktSize → Byte
  | .short => Config.byteSOH
  | .long => Config.byteSTX

/-- The fields of PKT128 and PKT1024 after the tag (R77, R78). -/
structure Packet where
  size : PktSize
  seq : Byte
  cmpl : Byte
  payload : List Byte
  crcField : Check
  deriving DecidableEq, Repr

/-- The payload has the length its format says. -/
def Packet.wf (p : Packet) : Bool := p.payload.length == p.size.toNat

/-- A received unit: a packet, or the one-byte marks of format MARK (R79). -/
inductive RxUnit where
  | packet (p : Packet)
  | eot
  | can
  deriving DecidableEq, Repr

/-- The payload of a unit, if it has one, has its format's length. -/
def RxUnit.wf : RxUnit → Bool
  | .packet p => p.wf
  | .eot => true
  | .can => true

/-- `{hi, lo}`: high byte first (R52, R81). -/
def checkOfBytes (hi lo : Byte) : Check := hi ++ lo
/-- Bits 15..8. -/
def checkHi (c : Check) : Byte := c.extractLsb' 8 8
/-- Bits 7..0. -/
def checkLo (c : Check) : Byte := c.extractLsb' 0 8

/-- The body bytes: sequence, complement, payload, CRC high, CRC low (R77). -/
def Packet.body (p : Packet) : List Byte :=
  p.seq :: p.cmpl :: (p.payload ++ [checkHi p.crcField, checkLo p.crcField])

/-- The bytes of a unit in the order sent. -/
def encodeUnit : RxUnit → List Byte
  | .packet p => p.size.tag :: p.body
  | .eot => [Config.byteEOT]
  | .can => [Config.byteCAN]

/-- Read the `size + 4` body bytes (R88, R136). -/
def decodeBody (size : PktSize) : List Byte → Except Reject (Packet × List Byte)
  | seq :: cmpl :: more =>
    match more.drop size.toNat with
    | hi :: lo :: rest =>
      .ok (⟨size, seq, cmpl, more.take size.toNat, checkOfBytes hi lo⟩, rest)
    | _ => .error .shortBody
  | _ => .error .shortBody

/-- Read one unit: its length is known from the leading byte alone (R88). -/
def decodeUnit : List Byte → Except Reject (RxUnit × List Byte)
  | [] => .error .noByte
  | t :: rest =>
    if t = Config.byteSOH then
      (decodeBody .short rest).map fun r => (.packet r.1, r.2)
    else if t = Config.byteSTX then
      (decodeBody .long rest).map fun r => (.packet r.1, r.2)
    else if t = Config.byteEOT then .ok (.eot, rest)
    else if t = Config.byteCAN then .ok (.can, rest)
    else .error (.illegalTag t)

end Sys2Proof
end

