-- ==== Sys2Proof/Machine/State.lean ====
section
/-! DEFINITION. The state of the block and of the environment it touches (spec/10_state.md R20 to R49), the model's own
fields beside it, the reasons a step can stop, and the state after reset (R47, R240). -/

namespace Sys2Proof.Machine

/-- A byte memory: strictly rising addresses; an address that is not listed holds no byte with a value (U9, notes/assumptions/6.md). -/
abbrev Memory := List Host.Cell

/-- RESULT (R39). -/
inductive SessionResult where
  | success (n : Nat)
  | failure
  deriving DecidableEq, Repr

/-- What the last operation that returns a value returned (model's own, notes/assumptions/2.md). -/
inductive Ret where
  | nothing
  /-- `read_byte`, `ring_pop`: some byte or none (R112, R115). -/
  | byte (r : Option Byte)
  /-- `parse_len`: a number, or `malformed` as none (R83). -/
  | length (n : Option Nat)
  deriving DecidableEq, Repr

/-- The parameters of R7 that an implementation fixes (notes/assumptions/8.md). -/
structure Params where
  /-- CNT_W, at least 1 (D5). -/
  cntW : Nat
  /-- CNT_HZ (D5): the block reads it nowhere, the default of READ_TIMEOUT_TICKS is computed from it. -/
  cntHz : Nat
  /-- READ_TIMEOUT_TICKS, below `2^(CNT_W - 1)` (D5). -/
  readTimeoutTicks : Nat
  /-- LEN_W (D6). -/
  lenW : Nat
  /-- DEST_CAP, below `2^LEN_W` (D7). -/
  destCap : Nat
  /-- HWFIFO_DEPTH less one (D8). -/
  fifoExtra : Nat
  /-- DIAG_TEXT: a cause that is not listed has the empty text (D9). -/
  diagText : List (FailCause × List Byte)
  /-- TERM_OK_ABORTS (D24). -/
  termOkAborts : Bool
  deriving DecidableEq, Repr

/-- What the CORE has still to do: a position inside the pseudocode of the rules (model's own, notes/assumptions/2.md). -/
inductive Task where
  /-- Run this operation. -/
  | call (i : Instr)
  /-- The loop of a `read_byte` called on its own (R116). -/
  | readPoll
  /-- A `receive` in progress: go on by RX_STATE (R131). -/
  | rx
  /-- `receive` has returned: select the branch by PHASE, OUTCOME and condition (R89, R218). -/
  | dispatch
  /-- `parse_len` has returned: select R154, R155 or R156 (R152). -/
  | header
  /-- The payload copy of an accepted packet: byte `i` is next (R167). -/
  | copy (i : Nat)
  /-- `PHASE <- B` (R154). -/
  | enterB
  /-- `PHASE <- C` (R163). -/
  | enterC
  deriving DecidableEq, Repr

/-- One entry of the script: a move of an environment agent, or "the CORE moves now" (R9, R10, notes/assumptions/1.md). -/
inductive Event where
  | core
  /-- `service_rx` at a time of the implementation's choice (R114). -/
  | service
  /-- COUNTER advances `n` ticks (R41). -/
  | tick (n : Nat)
  /-- PEER: a byte enters LINE (R44). -/
  | peerSend (b : Byte)
  /-- UART: the oldest byte of LINE reaches HWFIFO; if that is full the byte at index `lost` of the stored bytes followed
  by the arriving one is lost (R40, D8). -/
  | rxArrive (lost : Nat)
  /-- UART: the oldest byte of LINE is lost on the line (R124, U14). -/
  | lineLose
  /-- UART: the oldest byte of LINE is altered to `b` (R124, U14). -/
  | lineAlter (b : Byte)
  /-- UART: TX_READY takes this value (D10). -/
  | txReady (v : Bool)
  /-- HOST: `start(dest)` (R195). -/
  | hostStart (dest : Nat)
  /-- HOST: its top-level loop moves on, with the buffer `dest` (R197). -/
  | hostLoop (dest : Nat)
  /-- HOST: `reset()` or a power cycle (R192, R198); its one call of `hw_init()` is then pending (R240). -/
  | hostReset
  /-- HOST: writes a byte of its memory (R43, R198). -/
  | hostWrite (addr : Nat) (b : Byte)
  deriving DecidableEq, Repr

/-- Why the model stops. Every one is safe: the model stops where the spec gives no meaning, and Safety.lean states that
none of them is met in a state a run reaches. A failed session is no fault (R230). -/
inductive Fault where
  /-- `ring_pop` reads a RING byte that nothing has written (U9). Raised by ringPop. Safe. -/
  | ringNoValue
  /-- A read of PKT where its contents are unspecified (U9, R27). Raised by the validation and by every branch that reads
  the packet. Safe. -/
  | pktNoValue
  /-- A read of TOTAL while it holds no value (U9, R37). Raised by Phase B and C branches. Safe. -/
  | totalNoValue
  /-- A write through DEST_REF while it holds no value (U9, R38). Raised by the payload copy. Safe. -/
  | destNoValue
  /-- A write at an offset outside `DEST[0..DEST_CAP-1]` (U3). Raised by the payload copy. Safe. -/
  | destOutside
  /-- A TAG row outside the leading-byte position, RX_STATE = RX_TAG (R69, R131). Raised by SOH, STX, EOT, CAN, ILLEGAL. Safe. -/
  | notLeadingPosition
  /-- `receive` while a `receive` is in progress (R131: a call begins in RX_IDLE). Raised by receive and the phase steps. Safe. -/
  | receiveInProgress
  /-- A phase step in another phase (R151, R162, R171). Safe. -/
  | wrongPhase
  /-- A BRANCH row whose phase, outcome or condition does not hold (R89, R93). Raised by the 22 branches. Safe. -/
  | branchNotSelected
  /-- `succeed` outside Phase C, `fail` with no session (R33). Safe. -/
  | noSession
  /-- `done` while a session runs or before any has ended: RESULT holds no value (U9, R39). Safe. -/
  | resultNoValue
  deriving DecidableEq, Repr

/-- Why an instruction has no meaning here. -/
inductive Refusal where
  /-- Raised by exec for a row the model gives no meaning. Safe. -/
  | notModelled (mnemonic : String)
  deriving DecidableEq, Repr

/-- The state. The names of R20 stand in the comments; the fields from `par` on are the model's own. -/
structure State where
  /-- CRC (R21). -/
  crc : Check
  /-- RING (R22). -/
  ring : Memory
  /-- RING_WR, modulo 4096 (R23). -/
  ringWr : BitVec 12
  /-- RING_RD, modulo 4096 (R24). -/
  ringRd : BitVec 12
  /-- RING_CNT (R25). -/
  ringCnt : BitVec 13
  /-- DEADLINE, CNT_W bits (R26). -/
  deadline : Nat
  /-- PKT (R27). -/
  pkt : Memory
  /-- OUTCOME (R28). -/
  outcome : RecvOutcome
  /-- FAIL_CAUSE (R29). -/
  failCause : FailCause
  /-- RX_STATE (R30). -/
  rxState : RxState
  /-- PKT_IDX (R31). -/
  pktIdx : BitVec 11
  /-- TOL_REM (R32). -/
  tolRem : BitVec 2
  /-- PHASE (R33). -/
  phase : Phase
  /-- PKT_SIZE (R34). -/
  pktSize : PktSize
  /-- EXP_SEQ (R35). -/
  expSeq : Byte
  /-- RCVD, LEN_W bits (R36). -/
  rcvd : Nat
  /-- TOTAL, LEN_W bits (R37). -/
  total : Option Nat
  /-- DEST_REF: the address of `DEST[0]` in the HOST's memory (R38, notes/assumptions/14.md). -/
  destRef : Option Nat
  /-- RESULT (R39). -/
  result : Option SessionResult
  /-- HWFIFO, oldest first (R40). -/
  hwfifo : List Byte
  /-- COUNTER, CNT_W bits (R41). -/
  counter : Nat
  /-- TXLOG (R42). -/
  txlog : List Byte
  /-- The HOST's memory, in which DEST lies (R43). -/
  dest : Memory
  /-- LINE, oldest first (R44). -/
  line : List Byte
  /-- TX_READY (R7, D10). -/
  txReady : Bool
  /-- The parameters of this machine; no step changes them. -/
  par : Params
  /-- The moves still to come. -/
  script : List Event
  /-- What the CORE has still to do, the next first. -/
  pending : List Task
  /-- The value last returned. -/
  ret : Ret
  /-- The results handed to the HOST since power-up, in order (R11 (c), R196). -/
  handed : List SessionResult
  /-- Selects the next free value. -/
  free : Nat
  deriving DecidableEq, Repr

/-- The side of the ring buffer that `ring_push` writes: RING, RING_WR, RING_CNT (R111). -/
structure RingIn where
  cells : Memory
  wr : BitVec 12
  cnt : BitVec 13
  deriving DecidableEq, Repr

/-- The default of READ_TIMEOUT_TICKS: half of CNT_HZ, rounded (R7, D5, notes/assumptions/10.md). -/
def defaultReadTimeout (cntHz : Nat) : Nat := (cntHz + 1) / 2

/-- After power-up: `rst` followed by `hw_init()` (R47, R191, R240). An entry the table calls unspecified holds the value
that notes/assumptions/3.md names. -/
def State.reset : State where
  crc := 0
  ring := []
  ringWr := 0
  ringRd := 0
  ringCnt := 0
  deadline := 0
  pkt := []
  outcome := .timeout
  failCause := .none
  rxState := .idle
  pktIdx := 0
  tolRem := 0
  phase := .idle
  pktSize := .short
  expSeq := 0
  rcvd := 0
  total := none
  destRef := none
  result := none
  hwfifo := []
  counter := 0
  txlog := []
  dest := []
  line := []
  txReady := true
  par := { cntW := Config.defaultCntW, cntHz := Config.cntHz, readTimeoutTicks := defaultReadTimeout Config.cntHz,
           lenW := Config.defaultLenW, destCap := Config.destCap, fifoExtra := Config.fifoExtra,
           diagText := [], termOkAborts := false }
  script := []
  pending := []
  ret := .nothing
  handed := []
  free := 0

end Sys2Proof.Machine
end

