-- ==== Sys2Proof/Machine/Flags.lean ====
section
/-! DEFINITION. What is computed from values alone: the CRC (spec/40_crc16.md), the packet checks (spec/30_encoding.md R80,
R81), the header's length field (R83), the deadline test (spec/41_byte_receiver.md R117), the codes of D11. -/

namespace Sys2Proof.Machine

/-! ## CRC16 -/

/-- One of the eight rounds of R101: shift left, and XOR the polynomial where bit 15 was 1. -/
def crcRound (c : Check) : Check :=
  if c.getLsbD 15 then (c <<< 1) ^^^ Config.crcPoly else c <<< 1

/-- `n` rounds. -/
def crcRounds : Nat → Check → Check
  | 0, c => c
  | n + 1, c => crcRounds n (crcRound c)

/-- `crc_step` (R101): the byte enters bits 15..8, then eight rounds. -/
def crcStep (c : Check) (b : Byte) : Check :=
  crcRounds 8 (c ^^^ (b.setWidth 16 <<< 8))

/-- The loop of R101 from a register value (R103 (d)). -/
def crcFrom (c : Check) : List Byte → Check
  | [] => c
  | b :: bs => crcFrom (crcStep c b) bs

/-- `crc16` (R100, R101). -/
def crc16 (bytes : List Byte) : Check := crcFrom Config.crcInit bytes

/-! ## Packet checks -/

/-- `seq == cmpl ^ 0xFF` (R80, R140). -/
def pairValid (seq cmpl : Byte) : Bool := seq == cmpl ^^^ 0xFF

/-- The residue over the `size + 4` body bytes is zero (R81, R141). -/
def residueZero (body : List Byte) : Bool := crc16 body == 0

/-- The Outcome of a complete body: the pair first, then the check value (R140 to R143, R216). -/
def classifyBody (body : List Byte) : RecvOutcome :=
  if pairValid (body.getD 0 0) (body.getD 1 0) then
    if residueZero body then .ok else .protocolError
  else .protocolError

/-! ## The declared total length (R83) -/

/-- Skip the file name and its NUL; `none` if the payload has no NUL. -/
def afterName : List Byte → Option (List Byte)
  | [] => none
  | b :: bs => if b = 0x00 then some bs else afterName bs

/-- The decimal digits up to the space: `n` the number so far, below `limit`, `nd` how many digits it has; `none` is
`malformed`. -/
def decimalUpToSpace (limit n nd : Nat) : List Byte → Option Nat
  | [] => none
  | c :: cs =>
    if c = Config.byteSpace then (if nd = 0 then none else some n)
    else if c < Config.byteDigit0 ∨ Config.byteDigit9 < c then none
    else
      let n' := n * 10 + (c.toNat - Config.byteDigit0.toNat)
      if limit ≤ n' then none else decimalUpToSpace limit n' (nd + 1) cs

/-- `parse_len` over the payload bytes, with length registers of `lenW` bits; `none` is `malformed` (R83). -/
def declaredLength (lenW : Nat) (payload : List Byte) : Option Nat :=
  match afterName payload with
  | none => none
  | some rest => decimalUpToSpace (2 ^ lenW) 0 0 rest

/-! ## Comparisons -/

/-- `RCVD + PKT_SIZE > TOTAL`, compared without wrap-around (R49, R166). -/
def overruns (rcvd : Nat) (size : PktSize) (total : Nat) : Bool :=
  decide (total < rcvd + size.toNat)

/-- The deadline test: the signed `cntW`-bit difference is not negative (R49, R117). -/
def expired (cntW : Nat) (now deadline : Nat) : Bool := !(BitVec.ofNat cntW now - BitVec.ofNat cntW deadline).msb

/-! ## Parameters -/

/-- HWFIFO_DEPTH (R7, D8). -/
def fifoDepth (p : Params) : Nat := p.fifoExtra + 1

/-- DIAG_TEXT of a cause (R7, R179). -/
def diagTextOf (p : Params) (c : FailCause) : List Byte := (p.diagText.lookup c).getD []

/-! ## Codes (R28, R29, D11) -/

/-- The 3-bit code of an Outcome. -/
def outcomeCode : RecvOutcome → BitVec 3
  | .ok => 0 | .endOfTransfer => 1 | .abort => 2 | .protocolError => 3 | .timeout => 4

/-- The Outcome of a code 0 to 4. -/
def outcomeOfCode (n : Fin 5) : RecvOutcome :=
  if n = 0 then .ok else if n = 1 then .endOfTransfer else if n = 2 then .abort
  else if n = 3 then .protocolError else .timeout

/-- The 4-bit code of a FAIL_CAUSE. -/
def failCode : FailCause → BitVec 4
  | .none => 0 | .hsProtocolError => 1 | .hsAbort => 2 | .hsBadHeader => 3 | .hsLenExceedsCap => 4
  | .hsUnexpectedEot => 5 | .dataShort => 6 | .dataOverrun => 7 | .dataProtocolError => 8
  | .dataAbort => 9 | .dataTimeout => 10 | .termUnexpectedPacket => 11 | .termProtocolError => 12
  | .termTimeout => 13 | .termAbort => 14

end Sys2Proof.Machine
end

