-- ==== Sys2Proof/Machine/Ops.lean ====
section
/-! DEFINITION. The named operations over memory, the ring buffer, the hardware FIFO, the transmit path and the session
registers; failing a session (the block's only trap entry, spec/60_exceptions.md R219) as one shared operation. -/

namespace Sys2Proof.Machine

/-- The three outcomes of an operation of this machine. -/
abbrev Result := Host.Outcome State Fault Refusal

/-! ## Byte memory (R50, R51) -/

/-- The byte at an address, if it has a value. -/
def Memory.read : Memory → Nat → Option Byte
  | [], _ => none
  | (k, v) :: m, a => if k = a then some v else Memory.read m a

/-- Write one byte, keeping the addresses strictly rising. -/
def Memory.write (m : Memory) (a : Nat) (b : Byte) : Memory :=
  match m with
  | [] => [(a, b)]
  | (k, v) :: rest =>
    if a < k then (a, b) :: (k, v) :: rest
    else if a = k then (a, b) :: rest
    else (k, v) :: Memory.write rest a b

/-- The `n` bytes from an address on; `none` if one of them has no value. -/
def Memory.readAll (m : Memory) (a : Nat) : Nat → Option (List Byte)
  | 0 => some []
  | n + 1 =>
    match m.read a with
    | none => none
    | some b => (Memory.readAll m (a + 1) n).map (b :: ·)

/-- The canonical form: strictly rising addresses. -/
abbrev Memory.wf (m : Memory) : Prop := m.Pairwise (fun x y => x.1 < y.1)

/-! ## What the CORE has still to do -/

/-- Put tasks before the pending ones. -/
def State.push (ts : List Task) (s : State) : State := { s with pending := ts ++ s.pending }

/-! ## Ring buffer and hardware FIFO -/

/-- The registers `ring_push` reads and writes. -/
def State.ringIn (s : State) : RingIn := ⟨s.ring, s.ringWr, s.ringCnt⟩

/-- Put them back. -/
def State.withRingIn (r : RingIn) (s : State) : State :=
  { s with ring := r.cells, ringWr := r.wr, ringCnt := r.cnt }

/-- A byte is stored at RING_WR, or dropped when the ring is full (R111). -/
def RingIn.put (r : RingIn) (b : Byte) : RingIn :=
  if r.cnt.toNat = Config.ringCap then r else ⟨r.cells.write r.wr.toNat b, r.wr + 1, r.cnt + 1⟩

/-- Bytes are put in order. -/
def RingIn.putAll (r : RingIn) : List Byte → RingIn
  | [] => r
  | b :: bs => (r.put b).putAll bs

/-- `ring_push` (R111): a byte that does not fit is dropped. -/
def ringPush (b : Byte) (s : State) : State := s.withRingIn (s.ringIn.put b)

/-- `ring_pop` (R112). -/
def ringPop (s : State) : Except Fault (Option Byte × State) :=
  if s.ringCnt = 0 then .ok (none, s)
  else
    match s.ring.read s.ringRd.toNat with
    | none => .error .ringNoValue
    | some b => .ok (some b, { s with ringRd := s.ringRd + 1, ringCnt := s.ringCnt - 1 })

/-- `service_rx` (R113): the hardware FIFO is emptied into the ring, oldest byte first. -/
def serviceRx (s : State) : State :=
  { s.withRingIn (s.ringIn.putAll s.hwfifo) with hwfifo := [] }

/-- `discard_input` (R121). -/
def discardInput (s : State) : State := { s with hwfifo := [], ringRd := s.ringWr, ringCnt := 0 }

/-- `tx(b)` (R13, R64). -/
def tx (b : Byte) (s : State) : State := { s with txlog := s.txlog ++ [b] }

/-! ## Reads with a deadline -/

/-- The entry of `read_byte`: `DEADLINE <- (COUNTER + timeout) mod 2^CNT_W` (R116). -/
def startRead (timeout : Nat) (s : State) : State :=
  { s with deadline := (s.counter + timeout) % 2 ^ s.par.cntW }

/-- The entry of the block's own reads, all with READ_TIMEOUT_TICKS (R115, R130). -/
def beginRead (s : State) : State := startRead s.par.readTimeoutTicks s

/-- How one turn of the loop of R116 ends. -/
inductive Poll where
  | byte (b : Byte) (s : State)
  | none (s : State)
  | waiting (s : State)
  | stuck (f : Fault)

/-- One turn of the loop of `read_byte`: service, then pop, then the deadline test (R116, R217). -/
def pollRead (s : State) : Poll :=
  match ringPop (serviceRx s) with
  | .error f => .stuck f
  | .ok (some b, s') => .byte b s'
  | .ok (Option.none, s') => if expired s'.par.cntW s'.counter s'.deadline then .none s' else .waiting s'

/-! ## Blocking write -/

/-- One turn of the loop of `write_byte(b)` (R119): service, test readiness, then `tx(b)` and go on, or wait, that is run
`self` again. -/
def writeThen (b : Byte) (self : Instr) (next : State → Result) (s : State) : Result :=
  let s' := serviceRx s
  if s'.txReady then next (tx b s') else .next (s'.push [.call self])

/-! ## The Packet Receiver's registers -/

/-- A `receive` call begins (R130, R131) and reads its leading byte. -/
def beginReceive (tol : BitVec 2) (s : State) : State :=
  (beginRead { s with tolRem := tol, rxState := .tag }).push [.rx]

/-- A `receive` call ends with an Outcome (R131). -/
def finishReceive (o : RecvOutcome) (s : State) : State := { s with outcome := o, rxState := .idle }

/-- A start tag: store it, select the size, begin the body (R132, R133). -/
def openBody (size : PktSize) (s : State) : State :=
  (beginRead { s with pkt := s.pkt.write 0 size.tag, pktSize := size, pktIdx := 1, rxState := .body }).push [.rx]

/-- A body byte: store it at PKT_IDX and advance; after the last one the packet is checked (R131, R136). -/
def storeBody (b : Byte) (s : State) : State :=
  let s' := { s with pkt := s.pkt.write s.pktIdx.toNat b, pktIdx := s.pktIdx + 1 }
  if s.pktIdx.toNat < s.pktSize.toNat + Config.bodyExtra then (beginRead s').push [.rx]
  else { s' with rxState := .check }.push [.rx]

/-! ## Session start, session end -/

/-- The registers at session start (R195, R47); what the table calls unspecified takes a free value
(notes/assumptions/11.md). -/
def startSession (dest : Nat) (s : State) : State :=
  { s with
    destRef := some dest, expSeq := Config.seqInit, rcvd := 0, total := none, failCause := .none, result := none,
    phase := .a, rxState := .idle,
    outcome := outcomeOfCode (Config.freeOutcomeCode s.free),
    pktIdx := BitVec.ofNat 11 (Config.freePktIdx s.free).val,
    tolRem := Config.freeTolRem s.free,
    pktSize := if Config.freePktSizeLong s.free then .long else .short,
    free := s.free + 1 }

/-- `fail(cause)` (R180): the one way a failure is recorded. Nothing of the session goes on; `done` is raised. -/
def failSession (c : FailCause) (s : State) : State :=
  { s with result := some .failure, failCause := c, phase := .idle, pending := [.call .done] }

/-- `succeed(n)` (R180). -/
def succeedSession (n : Nat) (s : State) : State :=
  { s with result := some (.success n), phase := .idle, pending := [.call .done] }

/-- `done` (R196): RESULT is handed to the HOST. -/
def handResult (r : SessionResult) (s : State) : State := { s with handed := s.handed ++ [r] }

/-! ## Platform -/

/-- `hw_init()` (R191): the hardware FIFO and the ring buffer are empty, both cursors 0 (R47, D21). -/
def platformInit (s : State) : State := { s with hwfifo := [], ringWr := 0, ringRd := 0, ringCnt := 0 }

/-- Power-up (R192, R240): `rst` now, and the one call of `hw_init()` after it pending, so that it runs once and before any
session (R191, R193, notes/assumptions/4.md). What is not the block's stays: the HOST's memory, LINE, the parameters, the
script, the selector of free values. -/
def powerUp (s : State) : State :=
  { State.reset with dest := s.dest, line := s.line, par := s.par, script := s.script, free := s.free,
                     pending := [.call .hwInit] }

end Sys2Proof.Machine
end

