-- ==== Sys2Proof/Machine/Operands.lean ====
section
/-! DEFINITION. How the Packet Receiver and the Session Controller reach the packet: the fields of PKT by position
(spec/30_encoding.md R77 to R81), guarded by when they have a value (U9), and the payload copy byte by byte (R167). -/

namespace Sys2Proof.Machine

/-- The `size + 4` body bytes PKT[1 .. 4 + size], for the validation (R81, R141). -/
def bodyBytes (s : State) : Option (List Byte) := s.pkt.readAll 1 (s.pktSize.toNat + Config.bodyExtra)

/-- PKT holds a packet for the Session Controller: the last `receive` ended with `Ok` (R27, U9, notes/assumptions/7.md). -/
def packetHeld (s : State) : Bool := s.outcome == .ok && s.rxState == .idle

/-- PKT[i] as the Session Controller reads it (R27, R252). -/
def pktAt (s : State) (i : Nat) : Option Byte :=
  if packetHeld s ∧ i < s.pktSize.toNat + Config.bodyExtra + 1 then s.pkt.read i else none

/-- The sequence number PKT[1] (R80, R142). -/
def seqOf (s : State) : Option Byte := pktAt s 1

/-- The payload PKT[3 .. 2 + size] (R142). -/
def payloadOf (s : State) : Option (List Byte) :=
  if packetHeld s then s.pkt.readAll 3 s.pktSize.toNat else none

/-- The accepting branch after its ACK: the next sequence number, then the copy from payload byte 0 on (R167). -/
def beginCopy (s : State) : State := { s with expSeq := s.expSeq + 1 }.push [.copy 0]

/-- `MemWrite(DEST, off, 1, b)`, DEST[0] being at `base` (R13); a write outside DEST stops (U3). -/
def destWrite (base off : Nat) (b : Byte) (s : State) : Except Fault State :=
  if off < s.par.destCap then .ok { s with dest := s.dest.write (base + off) b } else .error .destOutside

/-- After payload byte `i`: the next one, or RCVD advanced and the next data step (R162, R167). -/
def afterCopied (i : Nat) (s : State) : State :=
  if i + 1 < s.pktSize.toNat then s.push [.copy (i + 1)]
  else { s with rcvd := s.rcvd + s.pktSize.toNat }.push [.call .phaseBStep]

/-- One `dest_write`: payload byte `i` goes to DEST[RCVD + i] (R10, R167). Each byte is a step of its own, so arrivals and a
reset can fall between two of them (R58, R65, notes/assumptions/15.md). -/
def copyByte (i : Nat) (s : State) : Result :=
  match pktAt s (3 + i), s.destRef with
  | none, _ => .fault .pktNoValue
  | some _, none => .fault .destNoValue
  | some b, some base =>
    match destWrite base (s.rcvd + i) b s with
    | .ok s' => .next (afterCopied i s')
    | .error f => .fault f

/-- A packet whose check value is right: SOH(seq, payload), STX(seq, payload) of the script notation (R91). -/
def goodPacket (size : PktSize) (seq : Byte) (payload : List Byte) : Packet :=
  { size := size, seq := seq, cmpl := seq ^^^ 0xFF, payload := payload,
    crcField := crc16 (seq :: (seq ^^^ 0xFF) :: payload) }

/-- HDR128(name, digits) of the script notation: the header payload padded with zero bytes (R82, R91). -/
def headerPacket (name digits : List Byte) : Packet :=
  let p := name ++ 0x00 :: digits ++ [Config.byteSpace]
  goodPacket .short 0x00 (p ++ List.replicate (Config.sizeShort - p.length) 0x00)

end Sys2Proof.Machine
end

