-- ==== Sys2Proof/Machine/Transmit.lean ====
section
/-! DEFINITION. The TXCTL rows and ABORTSEQ: transmitted control bytes (spec/30_encoding.md R75, R90), each one call of
`write_byte` (spec/41_byte_receiver.md R119). -/

namespace Sys2Proof.Machine

/-- ACK 0x06 (R90). -/
def execAck (s : State) : Result := writeThen Config.byteACK .ack .next s

/-- NAK 0x15 (R90). -/
def execNak (s : State) : Result := writeThen Config.byteNAK .nak .next s

/-- CRC-request 0x43 (R90). -/
def execCrq (s : State) : Result := writeThen Config.byteCRQ .crq .next s

/-- Cancel 0x18, transmitted (R90). -/
def execCanTx (s : State) : Result := writeThen Config.byteCAN .canTx .next s

/-- Backspace 0x08 (R90). -/
def execBs (s : State) : Result := writeThen Config.byteBS .bs .next s

/-- The eight writes of ABORTSEQ (R90, R178). -/
def abortSeqTasks : List Task :=
  List.replicate Config.abortCanN (.call .canTx) ++ List.replicate Config.abortBsN (.call .bs)

/-- ABORTSEQ: the eight bytes are written one call after the other (R90, R178). -/
def execAbortSeq (s : State) : Result := .next (s.push abortSeqTasks)

end Sys2Proof.Machine
end

