-- ==== Sys2Proof/Machine/Session.lean ====
section
/-! DEFINITION. `receive` (spec/42_packet_receiver.md R130), the operations of the Session Controller
(spec/43_session_controller.md) and of the boundary (spec/44_host_and_image_loader.md). -/

namespace Sys2Proof.Machine

/-- `receive(max_cancel_tolerance)`: the call begins (R130, R131); RX_STATE then takes it on (R136 to R143). -/
def execReceive (tol : BitVec 2) (s : State) : Result :=
  if s.rxState = .idle then .next (beginReceive tol s) else .fault .receiveInProgress

/-- `parse_len(payload, size)` (R83). The bytes p[i] beyond a payload shorter than `size`, of which R83 says nothing, are
free values (DESIGN CHOICE, notes/assumptions/31.md). -/
def execParseLen (payload : List Byte) (size : Nat) (s : State) : Result :=
  if size ≤ payload.length then .next { s with ret := .length (declaredLength s.par.lenW (payload.take size)) }
  else
    let beyond := (List.range (size - payload.length)).map (Config.freeByte s.free)
    .next { s with ret := .length (declaredLength s.par.lenW (payload ++ beyond)), free := s.free + 1 }

/-- `phase_A_attempt`: discard, then `C`, `receive(3)` and the dispatch (R151). -/
def execPhaseAAttempt (s : State) : Result :=
  if s.phase = .a then
    .next ((discardInput s).push [.call .crq, .call (.receive Config.tolHandshake), .dispatch])
  else .fault .wrongPhase

/-- A phase step that begins with its `receive` call: nothing is sent or discarded before it (R162, R171). -/
def receiveStep (p : Phase) (tol : BitVec 2) (s : State) : Result :=
  if s.phase = p then
    if s.rxState = .idle then .next (beginReceive tol (s.push [.dispatch])) else .fault .receiveInProgress
  else .fault .wrongPhase

/-- `phase_B_step` (R162). -/
def execPhaseBStep (s : State) : Result := receiveStep .b Config.tolData s

/-- `phase_C_step` (R171). -/
def execPhaseCStep (s : State) : Result := receiveStep .c Config.tolTerm s

/-- `abort_procedure`: the eight bytes, then discard (R178). -/
def execAbortProcedure (s : State) : Result := .next (s.push [.call .abortSeq, .call .discardInput])

/-- `report(cause)`: one `write_byte` for each byte of DIAG_TEXT(cause), in order (R179). -/
def execReport (cause : FailCause) (s : State) : Result :=
  .next (s.push ((diagTextOf s.par cause).map fun b => .call (.writeByte b)))

/-- `succeed(n)`: success comes from Phase C only (R33, R180). -/
def execSucceed (n : Nat) (s : State) : Result :=
  if s.phase = .c then .next (succeedSession n s) else .fault .noSession

/-- `fail(cause)`: from any of the phases A, B, C (R33, R180). -/
def execFail (cause : FailCause) (s : State) : Result :=
  if s.phase = .idle then .fault .noSession else .next (failSession cause s)

/-- `start(dest)`: ignored while PHASE is not IDLE (R195, D20); then Phase A begins. -/
def execStart (dest : Nat) (s : State) : Result :=
  if s.phase = .idle then .next ((startSession dest s).push [.call .phaseAAttempt]) else .next s

/-- `done`: the HOST receives RESULT (R196). -/
def execDone (s : State) : Result :=
  match s.phase, s.result with
  | .idle, some r => .next (handResult r s)
  | _, _ => .fault .resultNoValue

/-- `hw_init()` (R191). -/
def execHwInit (s : State) : Result := .next (platformInit s)

/-- `reset()`: power-up; control does not return to the caller (R192). -/
def execReset (s : State) : Result := .next (powerUp s)

end Sys2Proof.Machine
end

