-- ==== Sys2Proof/Machine/Branch.lean ====
section
/-! DEFINITION. The BRANCH rows: one branch of the session state machine each, selected by phase, outcome and condition
(spec/30_encoding.md R89, spec/43_session_controller.md R152 to R177), and the selection itself (R218).

A branch runs where its phase, outcome and condition hold. What it transmits is written by calls of `write_byte`, so a
branch runs up to its first write and leaves the rest as pending calls (notes/assumptions/15.md). -/

namespace Sys2Proof.Machine

/-! ## Conditions -/

/-- Phase and outcome of a branch. -/
def onBranch (p : Phase) (o : RecvOutcome) (s : State) (k : Result) : Result :=
  if s.phase = p ∧ s.outcome = o then k else .fault .branchNotSelected

/-- A branch of `Ok`: `k` is given the sequence number PKT[1]. -/
def onOk (p : Phase) (s : State) (k : Byte → Result) : Result :=
  onBranch p .ok s <|
    match seqOf s with
    | some q => k q
    | none => .fault .pktNoValue

/-- A branch of Phase A, `Ok` with sequence 0: `k` is given the payload (R152). -/
def onHeader (s : State) (k : List Byte → Result) : Result :=
  onOk .a s fun q =>
    if q = 0x00 then
      match payloadOf s with
      | some p => k p
      | none => .fault .pktNoValue
    else .fault .branchNotSelected

/-- TOTAL, where a rule reads it. -/
def withTotal (s : State) (k : Nat → Result) : Result :=
  match s.total with
  | some t => k t
  | none => .fault .totalNoValue

/-- A branch whose further condition is `c`. -/
def onlyIf (c : Bool) (k : Result) : Result := if c then k else .fault .branchNotSelected

/-- The reaction "abort procedure, then fail" (R157 and the other callers of R178). -/
def abortAndFail (c : FailCause) (s : State) : Result :=
  .next (s.push [.call .abortProcedure, .call (.fail c)])

/-! ## Phase A -/

/-- A.ok_seq0: parse the header, then one of the three branches below (R152). -/
def execAOkSeq0 (s : State) : Result :=
  onHeader s fun p => .next (s.push [.call (.parseLen p s.pktSize.toNat), .header])

/-- A.header_accepted: TOTAL, ACK, C, Phase B (R154). -/
def execAHeaderAccepted (s : State) : Result :=
  onHeader s fun p =>
    match declaredLength s.par.lenW p with
    | none => .fault .branchNotSelected
    | some n =>
      onlyIf (n ≤ s.par.destCap) <|
        writeThen Config.byteACK .aHeaderAccepted (fun s' => .next (s'.push [.call .crq, .enterB]))
          { s with total := some n }

/-- A.header_malformed (R155, D14). -/
def execAHeaderMalformed (s : State) : Result :=
  onHeader s fun p => onlyIf (declaredLength s.par.lenW p).isNone (abortAndFail .hsBadHeader s)

/-- A.len_exceeds_cap (R156, D15). -/
def execALenExceedsCap (s : State) : Result :=
  onHeader s fun p =>
    match declaredLength s.par.lenW p with
    | none => .fault .branchNotSelected
    | some n => onlyIf (s.par.destCap < n) (abortAndFail .hsLenExceedsCap s)

/-- A.protocol_error (R157). -/
def execAProtocolError (s : State) : Result :=
  onBranch .a .protocolError s (abortAndFail .hsProtocolError s)

/-- A.abort: ACK, then fail; no abort procedure, no discard (R158). -/
def execAAbort (s : State) : Result :=
  onBranch .a .abort s (writeThen Config.byteACK .aAbort (fun s' => .next (failSession .hsAbort s')) s)

/-- A.ok_seq_nonzero: NAK, then a new attempt (R159). -/
def execAOkSeqNonzero (s : State) : Result :=
  onOk .a s fun q =>
    onlyIf (q != 0x00)
      (writeThen Config.byteNAK .aOkSeqNonzero (fun s' => .next (s'.push [.call .phaseAAttempt])) s)

/-- A.end_of_transfer (R160, D13). -/
def execAEndOfTransfer (s : State) : Result :=
  onBranch .a .endOfTransfer s (abortAndFail .hsUnexpectedEot s)

/-- A.timeout: a new attempt; this branch transmits nothing (R161). -/
def execATimeout (s : State) : Result :=
  onBranch .a .timeout s (.next (s.push [.call .phaseAAttempt]))

/-! ## Phase B -/

/-- B.eot_complete: ACK, C, Phase C (R163). -/
def execBEotComplete (s : State) : Result :=
  onBranch .b .endOfTransfer s <| withTotal s fun t =>
    onlyIf (t ≤ s.rcvd)
      (writeThen Config.byteACK .bEotComplete (fun s' => .next (s'.push [.call .crq, .enterC])) s)

/-- B.eot_short: ACK, C, abort procedure, report, fail (R164). -/
def execBEotShort (s : State) : Result :=
  onBranch .b .endOfTransfer s <| withTotal s fun t =>
    onlyIf (s.rcvd < t)
      (writeThen Config.byteACK .bEotShort
        (fun s' => .next (s'.push
          [.call .crq, .call .abortProcedure, .call (.report .dataShort), .call (.fail .dataShort)])) s)

/-- B.ok_wrong_seq: NAK, discard, next step (R165). -/
def execBOkWrongSeq (s : State) : Result :=
  onOk .b s fun q =>
    onlyIf (q != s.expSeq)
      (writeThen Config.byteNAK .bOkWrongSeq
        (fun s' => .next (s'.push [.call .discardInput, .call .phaseBStep])) s)

/-- B.ok_overrun (R166). -/
def execBOkOverrun (s : State) : Result :=
  onOk .b s fun q => withTotal s fun t =>
    onlyIf (q == s.expSeq && overruns s.rcvd s.pktSize t) (abortAndFail .dataOverrun s)

/-- B.ok_accept: ACK, then the next sequence number, the payload copy byte by byte, RCVD, and the next step (R167). -/
def execBOkAccept (s : State) : Result :=
  onOk .b s fun q => withTotal s fun t =>
    onlyIf (q == s.expSeq && !overruns s.rcvd s.pktSize t)
      (writeThen Config.byteACK .bOkAccept (fun s' => .next (beginCopy s')) s)

/-- B.protocol_error (R168). -/
def execBProtocolError (s : State) : Result :=
  onBranch .b .protocolError s (abortAndFail .dataProtocolError s)

/-- B.abort: fail at once, nothing sent, nothing discarded (R169). -/
def execBAbort (s : State) : Result := onBranch .b .abort s (.next (failSession .dataAbort s))

/-- B.timeout (R170). -/
def execBTimeout (s : State) : Result := onBranch .b .timeout s (abortAndFail .dataTimeout s)

/-! ## Phase C -/

/-- C.end_of_transfer: ACK, then success with TOTAL (R172). -/
def execCEndOfTransfer (s : State) : Result :=
  onBranch .c .endOfTransfer s <| withTotal s fun t =>
    writeThen Config.byteACK .cEndOfTransfer (fun s' => .next (succeedSession t s')) s

/-- C.ok: fail; nothing is sent unless TERM_OK_ABORTS (R174, D24). -/
def execCOk (s : State) : Result :=
  onBranch .c .ok s <|
    if s.par.termOkAborts then abortAndFail .termUnexpectedPacket s
    else .next (failSession .termUnexpectedPacket s)

/-- C.protocol_error (R175). -/
def execCProtocolError (s : State) : Result :=
  onBranch .c .protocolError s (abortAndFail .termProtocolError s)

/-- C.timeout (R176). -/
def execCTimeout (s : State) : Result := onBranch .c .timeout s (abortAndFail .termTimeout s)

/-- C.abort: fail directly, nothing sent (R177). -/
def execCAbort (s : State) : Result := onBranch .c .abort s (.next (failSession .termAbort s))

/-! ## Selection (R89, R218) -/

/-- The branch of a phase and the Outcome that `receive` left, first match decides (R218). -/
def selectBranch (s : State) : Except Fault Instr :=
  match s.phase, s.outcome with
  | .idle, _ => .error .noSession
  | .a, .ok =>
    match seqOf s with
    | none => .error .pktNoValue
    | some q => .ok (if q = 0x00 then .aOkSeq0 else .aOkSeqNonzero)
  | .a, .endOfTransfer => .ok .aEndOfTransfer
  | .a, .abort => .ok .aAbort
  | .a, .protocolError => .ok .aProtocolError
  | .a, .timeout => .ok .aTimeout
  | .b, .ok =>
    match seqOf s, s.total with
    | none, _ => .error .pktNoValue
    | some _, none => .error .totalNoValue
    | some q, some t =>
      .ok (if q ≠ s.expSeq then .bOkWrongSeq else if overruns s.rcvd s.pktSize t then .bOkOverrun else .bOkAccept)
  | .b, .endOfTransfer =>
    match s.total with
    | none => .error .totalNoValue
    | some t => .ok (if t ≤ s.rcvd then .bEotComplete else .bEotShort)
  | .b, .abort => .ok .bAbort
  | .b, .protocolError => .ok .bProtocolError
  | .b, .timeout => .ok .bTimeout
  | .c, .ok => .ok .cOk
  | .c, .endOfTransfer => .ok .cEndOfTransfer
  | .c, .abort => .ok .cAbort
  | .c, .protocolError => .ok .cProtocolError
  | .c, .timeout => .ok .cTimeout

/-- The branch of a header packet: well-formedness, then capacity, then acceptance (R152, R218). -/
def selectHeader (s : State) : Except Fault Instr :=
  match payloadOf s with
  | none => .error .pktNoValue
  | some p =>
    match declaredLength s.par.lenW p with
    | none => .ok .aHeaderMalformed
    | some n => .ok (if s.par.destCap < n then .aLenExceedsCap else .aHeaderAccepted)

end Sys2Proof.Machine
end

