-- ==== Sys2Proof/Machine/ByteReceiver.lean ====
section
/-! DEFINITION. The operations of the CRC16 unit (spec/40_crc16.md) and of the Byte Receiver (spec/41_byte_receiver.md). -/

namespace Sys2Proof.Machine

/-- `crc16(bytes)`: CRC holds the result (R21, R100). -/
def execCrc16 (bytes : List Byte) (s : State) : Result := .next { s with crc := crc16 bytes }

/-- `ring_push(b)` (R111). -/
def execRingPush (b : Byte) (s : State) : Result := .next (ringPush b s)

/-- `ring_pop()` (R112). -/
def execRingPop (s : State) : Result :=
  match ringPop s with
  | .ok (r, s') => .next { s' with ret := .byte r }
  | .error f => .fault f

/-- `service_rx()` (R113). -/
def execServiceRx (s : State) : Result := .next (serviceRx s)

/-- One turn of a `read_byte` called on its own: return the byte, return none, or wait (R116). -/
def readTurn (s : State) : Result :=
  match pollRead s with
  | .byte b s' => .next { s' with ret := .byte (some b) }
  | .none s' => .next { s' with ret := .byte none }
  | .waiting s' => .next (s'.push [.readPoll])
  | .stuck f => .fault f

/-- `read_byte(timeout)` (R115, R116). -/
def execReadByte (timeout : Nat) (s : State) : Result := readTurn (startRead timeout s)

/-- `write_byte(b)` (R119). -/
def execWriteByte (b : Byte) (s : State) : Result := writeThen b (.writeByte b) .next s

/-- `discard_input()` (R121). -/
def execDiscardInput (s : State) : Result := .next (discardInput s)

end Sys2Proof.Machine
end

