-- ==== Sys2Proof/Machine/Tag.lean ====
section
/-! DEFINITION. The TAG rows: what a leading byte does in RX_STATE = RX_TAG (spec/42_packet_receiver.md R131 to R137). -/

namespace Sys2Proof.Machine

/-- A byte is a type tag only in the leading-byte position (R69, R131). -/
def inTagPosition (k : State → State) (s : State) : Result :=
  if s.rxState = .tag then .next (k s) else .fault .notLeadingPosition

/-- SOH, start-128 (R132). -/
def execSoh (s : State) : Result := inTagPosition (openBody .short) s

/-- STX, start-1024 (R133). -/
def execStx (s : State) : Result := inTagPosition (openBody .long) s

/-- EOT, end-of-transfer marker (R134). -/
def execEot (s : State) : Result := inTagPosition (finishReceive .endOfTransfer) s

/-- A cancel byte: test the tolerance, then decrement and read a fresh leading byte (R135, D12, C5). -/
def cancelByte (s : State) : State :=
  if s.tolRem = 0 then finishReceive .abort s
  else (beginRead { s with tolRem := s.tolRem - 1 }).push [.rx]

/-- CAN, cancel byte (R135). -/
def execCan (s : State) : Result := inTagPosition cancelByte s

/-- Any other leading byte (R137). -/
def execIllegal (_b : Byte) (s : State) : Result := inTagPosition (finishReceive .protocolError) s

end Sys2Proof.Machine
end

