-- ==== Sys2Proof/Machine/Dispatch.lean ====
section
/-! DEFINITION. One arm per constructor of Instr: the meaning of each row of spec/opcode_table.json. -/

namespace Sys2Proof.Machine

def exec (i : Instr) (s : State) : Host.Outcome State Fault Refusal :=
  match i with
  | .soh => Sys2Proof.Machine.execSoh s
  | .stx => Sys2Proof.Machine.execStx s
  | .eot => Sys2Proof.Machine.execEot s
  | .can => Sys2Proof.Machine.execCan s
  | .illegal b => Sys2Proof.Machine.execIllegal b s
  | .ack => Sys2Proof.Machine.execAck s
  | .nak => Sys2Proof.Machine.execNak s
  | .crq => Sys2Proof.Machine.execCrq s
  | .canTx => Sys2Proof.Machine.execCanTx s
  | .bs => Sys2Proof.Machine.execBs s
  | .abortSeq => Sys2Proof.Machine.execAbortSeq s
  | .crc16 bytes => Sys2Proof.Machine.execCrc16 bytes s
  | .ringPush b => Sys2Proof.Machine.execRingPush b s
  | .ringPop => Sys2Proof.Machine.execRingPop s
  | .serviceRx => Sys2Proof.Machine.execServiceRx s
  | .readByte t => Sys2Proof.Machine.execReadByte t s
  | .writeByte b => Sys2Proof.Machine.execWriteByte b s
  | .discardInput => Sys2Proof.Machine.execDiscardInput s
  | .receive tol => Sys2Proof.Machine.execReceive tol s
  | .parseLen p n => Sys2Proof.Machine.execParseLen p n s
  | .phaseAAttempt => Sys2Proof.Machine.execPhaseAAttempt s
  | .phaseBStep => Sys2Proof.Machine.execPhaseBStep s
  | .phaseCStep => Sys2Proof.Machine.execPhaseCStep s
  | .abortProcedure => Sys2Proof.Machine.execAbortProcedure s
  | .report c => Sys2Proof.Machine.execReport c s
  | .succeed n => Sys2Proof.Machine.execSucceed n s
  | .fail c => Sys2Proof.Machine.execFail c s
  | .start d => Sys2Proof.Machine.execStart d s
  | .done => Sys2Proof.Machine.execDone s
  | .hwInit => Sys2Proof.Machine.execHwInit s
  | .reset => Sys2Proof.Machine.execReset s
  | .aOkSeq0 => Sys2Proof.Machine.execAOkSeq0 s
  | .aHeaderAccepted => Sys2Proof.Machine.execAHeaderAccepted s
  | .aHeaderMalformed => Sys2Proof.Machine.execAHeaderMalformed s
  | .aLenExceedsCap => Sys2Proof.Machine.execALenExceedsCap s
  | .aProtocolError => Sys2Proof.Machine.execAProtocolError s
  | .aAbort => Sys2Proof.Machine.execAAbort s
  | .aOkSeqNonzero => Sys2Proof.Machine.execAOkSeqNonzero s
  | .aEndOfTransfer => Sys2Proof.Machine.execAEndOfTransfer s
  | .aTimeout => Sys2Proof.Machine.execATimeout s
  | .bEotComplete => Sys2Proof.Machine.execBEotComplete s
  | .bEotShort => Sys2Proof.Machine.execBEotShort s
  | .bOkWrongSeq => Sys2Proof.Machine.execBOkWrongSeq s
  | .bOkOverrun => Sys2Proof.Machine.execBOkOverrun s
  | .bOkAccept => Sys2Proof.Machine.execBOkAccept s
  | .bProtocolError => Sys2Proof.Machine.execBProtocolError s
  | .bAbort => Sys2Proof.Machine.execBAbort s
  | .bTimeout => Sys2Proof.Machine.execBTimeout s
  | .cEndOfTransfer => Sys2Proof.Machine.execCEndOfTransfer s
  | .cOk => Sys2Proof.Machine.execCOk s
  | .cProtocolError => Sys2Proof.Machine.execCProtocolError s
  | .cTimeout => Sys2Proof.Machine.execCTimeout s
  | .cAbort => Sys2Proof.Machine.execCAbort s

end Sys2Proof.Machine
end

