-- ==== Sys2Proof/Machine/Sequencer.lean ====
section
/-! DEFINITION. How the CORE goes on from one operation to the next (spec/42_packet_receiver.md R131,
spec/43_session_controller.md), the moves of the environment (spec/00_scope.md R9, R10), and where the next instruction's
word is fetched: a leading byte from the RX stream (R69), a transmitted byte from the pending writes. -/

namespace Sys2Proof.Machine

/-! ## A receive in progress -/

/-- RX_TAG: read a leading byte, decode it, run the instruction it is (R131, R138). -/
def rxTag (s : State) : Result :=
  match pollRead s with
  | .byte b s' => exec (decodeLeading b) s'
  | .none s' => .next (finishReceive .timeout s')
  | .waiting s' => .next (s'.push [.rx])
  | .stuck f => .fault f

/-- RX_BODY: read one body byte (R136, R139). With PKT_IDX already beyond the body the loop of R136 ends at once. -/
def rxBody (s : State) : Result :=
  if s.pktIdx.toNat ≤ s.pktSize.toNat + Config.bodyExtra then
    match pollRead s with
    | .byte b s' => .next (storeBody b s')
    | .none s' => .next (finishReceive .timeout s')
    | .waiting s' => .next (s'.push [.rx])
    | .stuck f => .fault f
  else .next ({ s with rxState := .check }.push [.rx])

/-- RX_CHECK: the sequence pair, then the check value (R140 to R143). CRC is left as the evaluation leaves it (R21). -/
def rxCheck (s : State) : Result :=
  match bodyBytes s with
  | none => .fault .pktNoValue
  | some body =>
    let s' := if pairValid (body.getD 0 0) (body.getD 1 0) then { s with crc := crc16 body } else s
    .next (finishReceive (classifyBody body) s')

/-- Go on with the `receive` in progress, by RX_STATE (R131). In RX_IDLE no call is in progress and nothing is left to do. -/
def rxStep (s : State) : Result :=
  match s.rxState with
  | .idle => .next s
  | .tag => rxTag s
  | .body => rxBody s
  | .check => rxCheck s

/-! ## The CORE -/

/-- Run what a selection chose. -/
def runSelected (r : Except Fault Instr) (s : State) : Result :=
  match r with
  | .ok i => exec i s
  | .error f => .fault f

/-- Run one task; `s` has it taken off already. -/
def runTask (t : Task) (s : State) : Result :=
  match t with
  | .call i => exec i s
  | .readPoll => readTurn s
  | .rx => rxStep s
  | .dispatch => runSelected (selectBranch s) s
  | .header => runSelected (selectHeader s) s
  | .copy i => copyByte i s
  | .enterB => .next ({ s with phase := .b }.push [.call .phaseBStep])
  | .enterC => .next ({ s with phase := .c }.push [.call .phaseCStep])

/-- The CORE moves: the next task, or nothing at all when none is pending (R242: it "does nothing" until `start`). -/
def coreMove (s : State) : Result :=
  match s.pending with
  | [] => .next s
  | t :: ts => runTask t { s with pending := ts }

/-! ## The environment -/

/-- The HOST can move: no session runs and no operation is in progress, for in the call form the caller is blocked
(R195, R198, U13, notes/assumptions/18.md). So it starts no session before `hw_init()` has run (R198). -/
def hostTurn (s : State) : Bool := s.phase == .idle && s.pending.isEmpty

/-- What the HOST's top-level loop does next (R197). -/
inductive LoopMove where
  /-- `ymodem_receive`. -/
  | receive
  /-- Leave the loop with a file of `n` bytes; the Image Loader, which is then called, is outside the block (R4). -/
  | leave (n : Nat)
  deriving DecidableEq, Repr

/-- The loop receives until a session has succeeded: at once after power-up, whose `hw_init()` is its first line, and again
after each failure, with no delay, no count, no state carried over (R197, R242, notes/assumptions/35.md). -/
def topLevelMove (handed : List SessionResult) : LoopMove :=
  match handed.getLast? with
  | some (.success n) => .leave n
  | some .failure => .receive
  | none => .receive

/-- The top-level loop moves on: the HOST is blocked while a session runs (R197, R198). -/
def topLevelStep (dest : Nat) (s : State) : Result :=
  if hostTurn s then
    match topLevelMove s.handed with
    | .receive => exec (.start dest) s
    | .leave _ => .next s
  else .next s

/-- The oldest byte of LINE reaches HWFIFO; a full HWFIFO loses the byte the environment names (R40, D8). -/
def rxArrive (lost : Nat) (s : State) : State :=
  match s.line with
  | [] => s
  | b :: rest =>
    if s.hwfifo.length < fifoDepth s.par then { s with line := rest, hwfifo := s.hwfifo ++ [b] }
    else { s with line := rest, hwfifo := (s.hwfifo ++ [b]).eraseIdx (min lost s.hwfifo.length) }

/-- One entry of the script. -/
def playEvent (e : Event) (s : State) : Result :=
  match e with
  | .core => coreMove s
  | .service => .next (serviceRx s)
  | .tick n => .next { s with counter := (s.counter + n) % 2 ^ s.par.cntW }
  | .peerSend b => .next { s with line := s.line ++ [b] }
  | .rxArrive lost => .next (rxArrive lost s)
  | .lineLose => .next { s with line := s.line.tail }
  | .lineAlter b => .next { s with line := match s.line with | [] => [] | _ :: rest => b :: rest }
  | .txReady v => .next { s with txReady := v }
  | .hostStart dest => if hostTurn s then exec (.start dest) s else .next s
  | .hostLoop dest => topLevelStep dest s
  | .hostReset => exec .reset s
  | .hostWrite a b => if hostTurn s then .next { s with dest := s.dest.write a b } else .next s

/-- One step: the next entry of the script, or the CORE when the script is empty. -/
def stepOnce (s : State) : Result :=
  match s.script with
  | [] => coreMove s
  | e :: es => playEvent e { s with script := es }

/-! ## Placing an instruction's word where the next step fetches it -/

/-- The next step is the CORE's. -/
def coreNext (s : State) : State := { s with script := .core :: s.script }

/-- `b` becomes the oldest byte of the ring and a `receive` waits for a leading byte. -/
def placeLeading (b : Byte) (s : State) : State :=
  let s' := { s with ring := s.ring.write s.ringRd.toNat b, rxState := .tag, pending := .rx :: s.pending }
  if s.ringCnt = 0 then { s' with ringWr := s.ringRd + 1, ringCnt := 1 } else s'

/-- The call of a transmit instruction becomes the CORE's next task, and the transmit path is ready. -/
def placeTransmit (i : Instr) (s : State) : State :=
  { s with pending := .call i :: s.pending, txReady := true }

/-- Place an instruction that has words (encode); one without words is placed nowhere. -/
def placeInstr (i : Instr) (s : State) : State :=
  match encode i with
  | some (.rx, b :: _) => coreNext (placeLeading b s)
  | some (.tx, _) => coreNext (placeTransmit i s)
  | _ => s

/-! ## Ports (R46), as a view of the state -/

/-- The outputs of R46 that the transaction level shows. -/
structure Ports where
  busy : Bool
  done : Bool
  ok : Bool
  resultLen : Nat
  failCause : BitVec 4
  deriving DecidableEq, Repr

/-- `busy`, `done`, `ok`, `result_len`, `fail_cause` (R46); `ok` and `result_len` have a meaning only with `done`. -/
def ports (s : State) : Ports where
  busy := s.phase != .idle
  done := s.pending.head? == some (.call .done)
  ok := match s.result with | some (.success _) => true | _ => false
  resultLen := match s.result with | some (.success n) => n | _ => 0
  failCause := failCode s.failCause

end Sys2Proof.Machine
end

