-- ==== Sys2Proof/Safety.lean ====
section
/-! DEFINITION. What counts as a safe state: the invariants the spec states of its memories, buffers, receiver and session
(spec/10_state.md R25, R31, R40, spec/41_byte_receiver.md R123, spec/43_session_controller.md R182), and the positions of
the pseudocode in which the CORE can stand. A state that meets `Inv` steps to a state that meets it, and never to a fault. -/

namespace Sys2Proof.Machine

/-- The first `n` bytes of a memory have values. -/
def Memory.holds (m : Memory) (n : Nat) : Prop := ∀ i, i < n → (m.read i).isSome = true

/-- The byte memories keep their form and their address ranges (R50, R51). -/
structure MemoryOk (s : State) : Prop where
  ringWf : s.ring.wf
  pktWf : s.pkt.wf
  destWf : s.dest.wf
  ringRange : ∀ c ∈ s.ring, c.1 < Config.ringCap
  pktRange : ∀ c ∈ s.pkt, c.1 < Config.pktBufLen

/-- The address of the `k`-th stored byte of the ring, from the oldest (R61). -/
def ringAddr (s : State) (k : Nat) : Nat := (s.ringRd.toNat + k) % Config.ringCap

/-- R25, R123: the count, the cursors, and every stored byte has a value. -/
structure RingOk (s : State) : Prop where
  count : s.ringCnt.toNat ≤ Config.ringCap
  cursors : s.ringWr = s.ringRd + s.ringCnt.setWidth 12
  stored : ∀ k, k < s.ringCnt.toNat → (s.ring.read (ringAddr s k)).isSome = true

/-- `n` bytes of the ring from index `k` of the FIFO on. -/
def ringFrom (s : State) (k : Nat) : Nat → List Byte
  | 0 => []
  | n + 1 => (s.ring.read (ringAddr s k)).getD 0 :: ringFrom s (k + 1) n

/-- The stored bytes, oldest first (R61); under `RingOk` each has a value. -/
def ringBytes (s : State) : List Byte := ringFrom s 0 s.ringCnt.toNat

/-- R40: HWFIFO holds at most HWFIFO_DEPTH bytes. -/
def FifoOk (s : State) : Prop := s.hwfifo.length ≤ fifoDepth s.par

/-- The whole packet of the selected size is in PKT. -/
def packetStored (s : State) : Prop := s.pkt.holds (s.pktSize.toNat + Config.bodyExtra + 1)

/-- R27, R31: what PKT_IDX says of PKT while a packet is read. -/
structure ReceiverOk (s : State) : Prop where
  index : s.pktIdx.toNat ≤ Config.pktBufLen
  body : s.rxState = .body → 1 ≤ s.pktIdx.toNat ∧ s.pktIdx.toNat ≤ s.pktSize.toNat + Config.bodyExtra ∧
    s.pkt.holds s.pktIdx.toNat
  check : s.rxState = .check → s.pktIdx.toNat = s.pktSize.toNat + Config.bodyExtra + 1 ∧ packetStored s

/-- R7: the ranges of the parameters. -/
structure ParamsOk (p : Params) : Prop where
  cntW : 0 < p.cntW
  timeout : p.readTimeoutTicks < 2 ^ (p.cntW - 1)
  destCap : p.destCap < 2 ^ p.lenW

/-- R26, R36, R37, R41: the registers of parametric width hold values of their width. -/
structure WidthsOk (s : State) : Prop where
  params : ParamsOk s.par
  counter : s.counter < 2 ^ s.par.cntW
  deadline : s.deadline < 2 ^ s.par.cntW
  rcvd : s.rcvd < 2 ^ s.par.lenW
  total : ∀ t, s.total = some t → t < 2 ^ s.par.lenW

/-- R182 (a): TOTAL has a value and `RCVD <= TOTAL <= DEST_CAP`. -/
def lengthsOk (s : State) : Prop := ∃ t, s.total = some t ∧ s.rcvd ≤ t ∧ t ≤ s.par.destCap

/-- R35 to R38, R182 (a), (b), (e): the session registers in each phase. -/
structure SessionOk (s : State) : Prop where
  dest : s.phase ≠ .idle → s.destRef.isSome = true
  multiple : s.phase ≠ .idle → s.rcvd % Config.sizeShort = 0
  handshake : s.phase = .a → s.rcvd = 0 ∧ s.expSeq = Config.seqInit
  data : s.phase = .b → lengthsOk s
  termination : s.phase = .c → s.total = some s.rcvd ∧ s.rcvd ≤ s.par.destCap

/-- Operations that touch neither the receiver's nor the session's registers. -/
def isQuiet : Instr → Bool
  | .crq | .canTx | .bs | .abortSeq | .writeByte _ | .discardInput | .abortProcedure | .report _ => true
  | _ => false

/-- `i` is the branch that PHASE, OUTCOME and the conditions select (R89, R218). -/
def selected (s : State) (i : Instr) : Prop :=
  selectBranch s = .ok i ∨ (selectBranch s = .ok .aOkSeq0 ∧ selectHeader s = .ok i)

/-- `receive` has returned, and a packet it reports is in PKT. -/
def returned (s : State) : Prop := s.phase ≠ .idle ∧ (s.outcome = .ok → packetStored s)

/-- Where the CORE can stand while no `receive` is in progress: what is pending, and what holds there. -/
inductive Standing (s : State) : List Task → Prop where
  | rest : s.phase = .idle → Standing s []
  | platform : s.phase = .idle → s.destRef = none → s.handed = [] → Standing s [.call .hwInit]
  | handOver : s.phase = .idle → s.result.isSome = true → Standing s [.call .done]
  | quiet (i : Instr) (ts : List Task) : isQuiet i = true → s.phase ≠ .idle → Standing s ts → Standing s (.call i :: ts)
  | failing (c : FailCause) : s.phase ≠ .idle → Standing s [.call (.fail c)]
  | attempt : s.phase = .a → Standing s [.call .phaseAAttempt]
  | handshake (tol : BitVec 2) : s.phase = .a → Standing s [.call (.receive tol), .dispatch]
  | dataStep : s.phase = .b → Standing s [.call .phaseBStep]
  | termStep : s.phase = .c → Standing s [.call .phaseCStep]
  | dispatch : returned s → Standing s [.dispatch]
  | parse (p : List Byte) (n : Nat) : returned s → selectBranch s = .ok .aOkSeq0 → n ≤ p.length →
      Standing s [.call (.parseLen p n), .header]
  | header : returned s → selectBranch s = .ok .aOkSeq0 → Standing s [.header]
  | branch (i : Instr) : returned s → selected s i → Standing s [.call i]
  | copy (i : Nat) : returned s → s.phase = .b → s.outcome = .ok → i < s.pktSize.toNat →
      (∀ t, s.total = some t → s.rcvd + s.pktSize.toNat ≤ t) → Standing s [.copy i]
  | enterB : s.phase = .a → lengthsOk s → Standing s [.enterB]
  | enterC : s.phase = .b → s.total = some s.rcvd → Standing s [.enterC]

/-- Where the CORE can stand: inside a `receive`, whose return the dispatch awaits, or outside any. -/
def ControlOk (s : State) : Prop :=
  (s.rxState ≠ .idle ∧ s.phase ≠ .idle ∧ s.pending = [.rx, .dispatch]) ∨
  (s.rxState = .idle ∧ Standing s s.pending)

/-- The invariant of the machine. -/
structure Inv (s : State) : Prop where
  memory : MemoryOk s
  widths : WidthsOk s
  ring : RingOk s
  fifo : FifoOk s
  receiver : ReceiverOk s
  session : SessionOk s
  control : ControlOk s

/-- The next step is the CORE's; `s0` is the state with that script entry taken off. -/
def coreTurn (s s0 : State) : Prop :=
  (s.script = [] ∧ s0 = s) ∨ ∃ es, s.script = .core :: es ∧ s0 = { s with script := es }

/-- The transitions of PHASE that R33 allows. -/
def phaseMayGo : Phase → Phase → Bool
  | .idle, .idle | .idle, .a | .a, .a | .a, .b | .a, .idle | .b, .b | .b, .c | .b, .idle | .c, .c | .c, .idle => true
  | _, _ => false

/-! ## `receive` in one piece (R146), as a function of the bytes that arrive -/

/-- What one call makes of a byte list: its Outcome and how many bytes it consumes; `none` while the bytes given do not
decide it (R146, R147). -/
def receivePiece (tol : Nat) : List Byte → Option (RecvOutcome × Nat)
  | [] => none
  | t :: rest =>
    if t = Config.byteSOH ∨ t = Config.byteSTX then
      let n := (if t = Config.byteSOH then PktSize.short else PktSize.long).toNat + Config.bodyExtra
      if rest.length < n then none else some (classifyBody (rest.take n), n + 1)
    else if t = Config.byteEOT then some (.endOfTransfer, 1)
    else if t = Config.byteCAN then
      match tol with
      | 0 => some (.abort, 1)
      | k + 1 => (receivePiece k rest).map fun r => (r.1, r.2 + 1)
    else some (.protocolError, 1)

end Sys2Proof.Machine
end

