-- ==== Sys2Proof/Certificates/Slice0/Obligations.lean ====
section
/-! DEFINITION. The statements about the model, each formalising rules of spec/. Where a statement runs several steps its
premise `s.script = []` says that the environment makes no move meanwhile; every single step is stated without it. -/

open Sys2Proof Sys2Proof.Machine

namespace Sys2Proof.Machine

/-- `k` steps of the machine. -/
def runSteps (k : Nat) (s : State) : Result := core.run k s

/-- The state after the abort procedure has run with the transmit path ready: ABORTSEQ is in TXLOG, what was pending or
serviced meanwhile is dropped, nothing else is changed (R178). -/
def afterAbortProcedure (s : State) : State :=
  { serviceRx s with
    txlog := s.txlog ++ [0x18, 0x18, 0x18, 0x18, 0x08, 0x08, 0x08, 0x08],
    ringRd := (serviceRx s).ringWr, ringCnt := 0 }

/-- What the end of a failed session records (R180). -/
def recordsFailure (c : FailCause) (s : State) : State :=
  { s with result := some .failure, failCause := c, phase := .idle, pending := [.call .done] }

/-- A BRANCH row. -/
def isBranch : Instr → Bool
  | .aOkSeq0 | .aHeaderAccepted | .aHeaderMalformed | .aLenExceedsCap | .aProtocolError | .aAbort | .aOkSeqNonzero
  | .aEndOfTransfer | .aTimeout | .bEotComplete | .bEotShort | .bOkWrongSeq | .bOkOverrun | .bOkAccept
  | .bProtocolError | .bAbort | .bTimeout | .cEndOfTransfer | .cOk | .cProtocolError | .cTimeout | .cAbort => true
  | _ => false

/-- The value of a run of ASCII decimal digits, most significant first (R54, R82). -/
def decimalValue (digits : List Byte) : Nat := digits.foldl (fun n c => n * 10 + (c.toNat - 0x30)) 0

/-- The branches whose reaction is the abort procedure and then a failure, with what selects them by phase and outcome
alone (R157, R168, R170, R175, R176). -/
def abortingBranches : List (Instr × Phase × RecvOutcome × FailCause) :=
  [(.aProtocolError, .a, .protocolError, .hsProtocolError), (.bProtocolError, .b, .protocolError, .dataProtocolError),
   (.bTimeout, .b, .timeout, .dataTimeout), (.cProtocolError, .c, .protocolError, .termProtocolError),
   (.cTimeout, .c, .timeout, .termTimeout)]

end Sys2Proof.Machine

/-! ## Fetching and decoding -/

/-- The word the CORE stands at is decoded and run: a leading byte in RX_TAG (R69, R131), a pending call, a branch
selected by phase, outcome and condition (R93); with nothing pending the block does nothing (R242). -/
def Obligations.StepRunsWhatItFetches : Prop :=
  ∀ s s0 : State, coreTurn s s0 →
    (∀ ts b s1, s0.pending = .rx :: ts → s0.rxState = .tag → pollRead { s0 with pending := ts } = .byte b s1 →
      step s = exec (decodeLeading b) s1) ∧
    (∀ ts i, s0.pending = .call i :: ts → step s = exec i { s0 with pending := ts }) ∧
    (∀ ts i, s0.pending = .dispatch :: ts → selectBranch { s0 with pending := ts } = .ok i →
      step s = exec i { s0 with pending := ts }) ∧
    (∀ ts i, s0.pending = .header :: ts → selectHeader { s0 with pending := ts } = .ok i →
      step s = exec i { s0 with pending := ts }) ∧
    (s0.pending = [] → step s = .next s0)

/-- A byte placed as a table word is what the next step runs. A received byte takes the place of the oldest byte of the
ring, that byte is the one consumed, and nothing else changes but by the service pass; a transmitted byte is run at the
state itself with the transmit path ready. Which direction a word stands in and how it is placed are the model's choice
(notes/assumptions/22.md, 23.md); the service pass is D16 (notes/assumptions/25.md). -/
def Obligations.PlacedWordIsRunNext : Prop :=
  ∀ (s : State) (b : Byte), RingOk s →
    (legalTag b = true ∨ decodeControl b = none →
      ringBytes (s.withFetchWord 8 b.toNat) = b :: (ringBytes s).tail ∧
      ∃ s1, step (s.withFetchWord 8 b.toNat) = exec (decodeTableByte b) s1 ∧
        s1 = { s with rxState := .tag, hwfifo := [], ring := s1.ring, ringWr := s1.ringWr, ringRd := s.ringRd + 1,
                      ringCnt := s1.ringCnt } ∧
        RingOk s1 ∧ ringBytes s1 = ((ringBytes s).tail ++ s.hwfifo).take 4095) ∧
    (∀ i, legalTag b = false → decodeControl b = some i →
      decodeTableByte b = i ∧ step (s.withFetchWord 8 b.toNat) = exec i { s with txReady := true })

/-- Words written out from R75, R76 and R90; the code of 'C' is the spec's general knowledge (G2, notes/assumptions/30.md). -/
def Obligations.WrittenWordsDecode : Prop :=
  decode .rx [0b00000001#8] = .ok (.soh, []) ∧ decode .rx [0b00000010#8] = .ok (.stx, []) ∧
  decode .rx [0b00000100#8] = .ok (.eot, []) ∧ decode .rx [0b00011000#8] = .ok (.can, []) ∧
  decode .rx [0b01000011#8] = .ok (.illegal 0x43#8, []) ∧
  decode .tx [0b00000110#8] = .ok (.ack, []) ∧ decode .tx [0b00010101#8] = .ok (.nak, []) ∧
  decode .tx [0b01000011#8] = .ok (.crq, []) ∧ decode .tx [0b00011000#8] = .ok (.canTx, []) ∧
  decode .tx [0b00001000#8] = .ok (.bs, []) ∧
  decode .tx [0x18#8, 0x18#8, 0x18#8, 0x18#8, 0x08#8, 0x08#8, 0x08#8, 0x08#8] = .ok (.abortSeq, [])

/-- A received unit is read back from its bytes, whatever follows them (R76 to R79, R88). -/
def Obligations.UnitsDecodeAsEncoded : Prop :=
  ∀ (u : RxUnit) (rest : List Byte), u.wf = true → decodeUnit (encodeUnit u ++ rest) = .ok (u, rest)

/-- The layouts of PKT128 and PKT1024 by offset (R77, R78), for a packet as a sender makes it. -/
def Obligations.PacketLayoutByOffset : Prop :=
  ∀ (size : PktSize) (seq : Byte) (payload : List Byte), payload.length = size.toNat →
    ∃ crc, crc = crc16 (seq :: (seq ^^^ 0xFF) :: payload) ∧
    ∃ bytes, bytes = encodeUnit (.packet (goodPacket size seq payload)) ∧
      bytes.length = size.toNat + 5 ∧
      bytes[0]? = some (match size with | .short => 0x01#8 | .long => 0x02#8) ∧
      bytes[1]? = some seq ∧ bytes[2]? = some (seq ^^^ 0xFF#8) ∧
      (∀ i, i < size.toNat → bytes[3 + i]? = payload[i]?) ∧
      bytes[3 + size.toNat]? = some (crc.extractLsb' 8 8) ∧
      bytes[4 + size.toNat]? = some (crc.extractLsb' 0 8)

/-! ## CRC16 -/

/-- R103 (e), source property S1: a message followed by its check value, high byte first, has check value zero. -/
def Obligations.CrcCancelsItself : Prop :=
  ∀ data : List Byte, crc16 (data ++ [(crc16 data).extractLsb' 8 8, (crc16 data).extractLsb' 0 8]) = 0

/-- R103 (b), (c): leading zero bytes do not count; the check value is linear over XOR. -/
def Obligations.CrcIsLinear : Prop :=
  (∀ (n : Nat) (s : List Byte), crc16 (List.replicate n 0x00#8 ++ s) = crc16 s) ∧
  (∀ a b : List Byte, a.length = b.length →
    crc16 (List.zipWith (fun x y => x ^^^ y) a b) = crc16 a ^^^ crc16 b)

/-- R104: the residue form and the comparison form of the packet check agree. -/
def Obligations.ResidueAndComparisonAgree : Prop :=
  ∀ (msg : List Byte) (hi lo : Byte), crc16 (msg ++ [hi, lo]) = 0 ↔ crc16 msg = hi ++ lo

/-- A packet as a sender makes it is classified `Ok`; a body with a wrong check value or a broken pair never is (R80, R81,
R87, R107). -/
def Obligations.OnlyGoodBodiesAreOk : Prop :=
  (∀ size seq payload, classifyBody (goodPacket size seq payload).body = .ok) ∧
  (∀ p : Packet, classifyBody p.body = .ok ↔
    p.cmpl = p.seq ^^^ 0xFF#8 ∧ p.crcField = crc16 (p.seq :: p.cmpl :: p.payload)) ∧
  (∀ n, crc16 (List.replicate n 0x00#8) = 0 ∧ classifyBody (List.replicate n 0x00#8) = .protocolError)

/-- `crc16` leaves the check value in CRC and `parse_len` returns what the payload declares (R21, R83, R100); the check
value is computed bit by bit as R101 writes it (G1, notes/assumptions/30.md). Beyond a payload shorter than the size the
bytes are free (the model's choice, notes/assumptions/31.md): the result is that of some such bytes, and a length that the
payload declares by itself stands whatever they are. -/
def Obligations.ValueOperationsReturn : Prop :=
  (∀ (s : State) (bytes : List Byte), exec (.crc16 bytes) s = .next { s with crc := crc16 bytes }) ∧
  crc16 [] = 0 ∧
  (∀ (bytes : List Byte) (b : Byte), crc16 (bytes ++ [b]) = crcStep (crc16 bytes) b) ∧
  (∀ (c : Check) (b : Byte), crcStep c b =
    Nat.repeat (fun c => if c.msb then (c <<< 1) ^^^ 0x1021#16 else c <<< 1) 8 (c ^^^ (b.setWidth 16 <<< 8))) ∧
  (∀ (s : State) (p : List Byte) (size : Nat),
    (size ≤ p.length →
      exec (.parseLen p size) s = .next { s with ret := .length (declaredLength s.par.lenW (p.take size)) }) ∧
    (p.length < size → ∃ beyond : List Byte, beyond.length = size - p.length ∧
      exec (.parseLen p size) s = .next
        { s with ret := .length (declaredLength s.par.lenW (p ++ beyond)), free := s.free + 1 } ∧
      (∀ n, declaredLength s.par.lenW p = some n → declaredLength s.par.lenW (p ++ beyond) = some n)))

/-! ## Byte Receiver -/

/-- `ring_push` (R111). -/
def Obligations.RingPushStoresOrDrops : Prop :=
  ∀ (s : State) (b : Byte),
    exec (.ringPush b) s = .next (
      if s.ringCnt.toNat = 4096 then s
      else { s with ring := s.ring.write s.ringWr.toNat b, ringWr := s.ringWr + 1, ringCnt := s.ringCnt + 1 }) ∧
    (s.ringCnt.toNat ≠ 4096 → (s.ring.write s.ringWr.toNat b).read s.ringWr.toNat = some b ∧
      ∀ a, a ≠ s.ringWr.toNat → (s.ring.write s.ringWr.toNat b).read a = s.ring.read a) ∧
    (s.ringWr.toNat = 4095 → (s.ringWr + 1).toNat = 0)

/-- `ring_pop` (R112): the byte at RING_RD, or none. That a read of a byte without value stops is the model's reading of U9
(notes/assumptions/6.md). -/
def Obligations.RingPopTakesTheOldest : Prop :=
  ∀ s : State,
    (s.ringCnt = 0 → exec .ringPop s = .next { s with ret := .byte none }) ∧
    (∀ b, s.ringCnt ≠ 0 → s.ring.read s.ringRd.toNat = some b →
      exec .ringPop s =
        .next { s with ringRd := s.ringRd + 1, ringCnt := s.ringCnt - 1, ret := .byte (some b) }) ∧
    (s.ringCnt ≠ 0 → s.ring.read s.ringRd.toNat = none → exec .ringPop s = .fault .ringNoValue)

/-- R61, R63, R112: the ring is a FIFO of at most 4096 bytes that drops what does not fit. -/
def Obligations.RingIsAFifo : Prop :=
  ∀ s : State, RingOk s →
    (∀ b t, exec (.ringPush b) s = .next t →
      RingOk t ∧ ringBytes t = if (ringBytes s).length = 4096 then ringBytes s else ringBytes s ++ [b]) ∧
    (∀ b bs, ringBytes s = b :: bs →
      ∃ t, exec .ringPop s = .next t ∧ t.ret = .byte (some b) ∧ RingOk t ∧ ringBytes t = bs) ∧
    (ringBytes s = [] → exec .ringPop s = .next { s with ret := .byte none })

/-- `service_rx` (R113; that one call empties HWFIFO is D16, notes/assumptions/25.md): HWFIFO is emptied into the ring,
oldest byte first; what does not fit is lost; nothing else changes, and no RING byte outside the places written. -/
def Obligations.ServiceRxDrainsTheFifo : Prop :=
  ∀ s : State, RingOk s →
    ∃ t, exec .serviceRx s = .next t ∧
      t = { s with hwfifo := [], ring := t.ring, ringWr := t.ringWr, ringCnt := t.ringCnt } ∧
      RingOk t ∧ ringBytes t = (ringBytes s ++ s.hwfifo).take 4096 ∧
      (∀ a, (∀ k, k < s.hwfifo.length → a ≠ (s.ringWr.toNat + k) % 4096) → t.ring.read a = s.ring.read a)

/-- `discard_input` (R121, in one piece by D18, notes/assumptions/25.md): both buffers are empty; the stored cells, LINE and
everything else stay. -/
def Obligations.DiscardInputEmptiesBoth : Prop :=
  ∀ s : State, ∃ t, exec .discardInput s = .next t ∧
    t = { s with hwfifo := [], ringRd := s.ringWr, ringCnt := 0 } ∧ ringBytes t = [] ∧
    (RingOk s → RingOk t)

/-- `read_byte` with a byte pending returns the oldest one, whatever the deadline (R115, R116, R217). The order of the tests
is D17; that the one turn leaves HWFIFO empty and its bytes in the ring is D16 (R113), notes/assumptions/25.md. -/
def Obligations.ReadByteReturnsTheOldest : Prop :=
  ∀ (s : State) (timeout : Nat) (b : Byte) (bs : List Byte), RingOk s → ringBytes s ++ s.hwfifo = b :: bs →
    ∃ t, exec (.readByte timeout) s = .next t ∧
      t = { s with deadline := (s.counter + timeout) % 2 ^ s.par.cntW, ret := .byte (some b), hwfifo := [],
                   ring := t.ring, ringWr := t.ringWr, ringRd := s.ringRd + 1, ringCnt := t.ringCnt } ∧
      RingOk t ∧ ringBytes t = bs.take 4095

/-- `read_byte` with nothing pending: none once the deadline has passed, else it waits, and its next turn tests again
without a new deadline (R116; order of the tests by D17, notes/assumptions/25.md; the model takes the timed form,
notes/assumptions/26.md); a turn answers none only where no byte is pending (R118 (c)). -/
def Obligations.ReadByteWaitsForTheDeadline : Prop :=
  (∀ s : State, RingOk s → ringBytes s = [] → s.hwfifo = [] →
    (∀ timeout, exec (.readByte timeout) s = .next (
      if expired s.par.cntW s.counter ((s.counter + timeout) % 2 ^ s.par.cntW) then
        { s with deadline := (s.counter + timeout) % 2 ^ s.par.cntW, ret := .byte none }
      else { s with deadline := (s.counter + timeout) % 2 ^ s.par.cntW, pending := .readPoll :: s.pending })) ∧
    (∀ ts, s.script = [] → s.pending = .readPoll :: ts → step s = .next (
      if expired s.par.cntW s.counter s.deadline then { s with pending := ts, ret := .byte none } else s))) ∧
  (∀ s t : State, RingOk s → pollRead s = .none t →
    ringBytes s = [] ∧ s.hwfifo = [] ∧ expired s.par.cntW s.counter s.deadline = true)

/-- R117: at every counter width the deadline test is right across the wrap, for a timeout below half the counter's range
and as long as it is sampled within half its range after the deadline. That the deadline itself counts as passed is D17
(notes/assumptions/25.md). -/
def Obligations.DeadlineTestSurvivesWraparound : Prop :=
  ∀ cntW start timeout elapsed : Nat, 0 < cntW → timeout < 2 ^ (cntW - 1) → elapsed < timeout + 2 ^ (cntW - 1) →
    (expired cntW ((start + elapsed) % 2 ^ cntW) ((start + timeout) % 2 ^ cntW) = true ↔ timeout ≤ elapsed)

/-- `write_byte` and the five control bytes of R90: with the transmit path ready the byte is sent, after one service pass;
else the receive path is serviced and the call goes on waiting (R119, R120, U7; the service pass before the first test is
D16, notes/assumptions/25.md). -/
def Obligations.WritesSendOrWait : Prop :=
  ∀ (s : State) (i : Instr) (b : Byte),
    (i, b) ∈ [(.ack, 0x06#8), (.nak, 0x15#8), (.crq, 0x43#8), (.canTx, 0x18#8), (.bs, 0x08#8), (.writeByte b, b)] →
    (s.txReady = true → exec i s = .next { serviceRx s with txlog := s.txlog ++ [b] }) ∧
    (s.txReady = false → exec i s = .next { serviceRx s with pending := .call i :: s.pending })

/-! ## Packet Receiver -/

/-- `receive` begins: the tolerance is loaded, the leading byte is awaited; nothing is sent or dropped (R130, R131). That it
stops while a call is in progress is the model's choice (notes/assumptions/17.md). -/
def Obligations.ReceiveBegins : Prop :=
  ∀ (s : State) (tol : BitVec 2),
    (s.rxState = .idle → exec (.receive tol) s = .next
      { s with tolRem := tol, rxState := .tag, deadline := (s.counter + s.par.readTimeoutTicks) % 2 ^ s.par.cntW,
               pending := .rx :: s.pending }) ∧
    (s.rxState ≠ .idle → exec (.receive tol) s = .fault .receiveInProgress)

/-- R132, R133: a start tag is stored at PKT[0], selects the size, and the body is read next, whatever TOL_REM is. No
other byte of PKT changes. -/
def Obligations.StartTagsOpenTheBody : Prop :=
  ∀ s : State, s.rxState = .tag →
    exec .soh s = .next { s with pkt := s.pkt.write 0 0x01#8, pktSize := .short, pktIdx := 1, rxState := .body,
                                 deadline := (s.counter + s.par.readTimeoutTicks) % 2 ^ s.par.cntW, pending := .rx :: s.pending } ∧
    exec .stx s = .next { s with pkt := s.pkt.write 0 0x02#8, pktSize := .long, pktIdx := 1, rxState := .body,
                                 deadline := (s.counter + s.par.readTimeoutTicks) % 2 ^ s.par.cntW, pending := .rx :: s.pending } ∧
    PktSize.short.toNat = 128 ∧ PktSize.long.toNat = 1024 ∧
    (∀ b, (s.pkt.write 0 b).read 0 = some b ∧ ∀ a, a ≠ 0 → (s.pkt.write 0 b).read a = s.pkt.read a)

/-- R134: the end-of-transfer marker ends the call, whatever TOL_REM is; no further byte is read. -/
def Obligations.EotReturnsAtOnce : Prop :=
  ∀ s : State, s.rxState = .tag →
    exec .eot s = .next { s with outcome := .endOfTransfer, rxState := .idle }

/-- R135, D12 (notes/assumptions/25.md): a cancel byte aborts with no tolerance left, else costs one and a fresh leading byte
is read. -/
def Obligations.CancelByteTestsThenDecrements : Prop :=
  ∀ s : State, s.rxState = .tag →
    (s.tolRem = 0 → exec .can s = .next { s with outcome := .abort, rxState := .idle }) ∧
    (s.tolRem ≠ 0 → exec .can s = .next
      { s with tolRem := s.tolRem - 1, deadline := (s.counter + s.par.readTimeoutTicks) % 2 ^ s.par.cntW,
               pending := .rx :: s.pending } ∧ (s.tolRem - 1).toNat = s.tolRem.toNat - 1)

/-- R137: any other leading byte ends the call with `ProtocolError`; that one byte is consumed and nothing else is read. The
second clause holds whatever the deadline (D17, R217) and after a full service pass (D16), notes/assumptions/25.md. -/
def Obligations.IllegalLeadingByte : Prop :=
  (∀ (s : State) (b : Byte), s.rxState = .tag →
    exec (.illegal b) s = .next { s with outcome := .protocolError, rxState := .idle }) ∧
  (∀ (s s0 : State) (ts : List Task) (b : Byte) (bs : List Byte), coreTurn s s0 → RingOk s0 →
    s0.pending = .rx :: ts → s0.rxState = .tag → (ringBytes s0 ++ s0.hwfifo).take 4096 = b :: bs →
    b ∉ [0x01#8, 0x02#8, 0x04#8, 0x18#8] →
    ∃ t, step s = .next t ∧ t.outcome = .protocolError ∧ t.rxState = .idle ∧ t.pending = ts ∧ ringBytes t = bs ∧
      t.hwfifo = [] ∧ t.pkt = s.pkt ∧ t.txlog = s.txlog)

/-- R69, R131: outside the leading-byte position no byte is a tag. That the model stops there is its choice
(notes/assumptions/17.md). -/
def Obligations.TagsOnlyInLeadingPosition : Prop :=
  ∀ (s : State) (b : Byte), s.rxState ≠ .tag →
    ∀ i ∈ [Instr.soh, .stx, .eot, .can, .illegal b], exec i s = .fault .notLeadingPosition

/-- R136: a body byte is stored at PKT_IDX whatever its value, and the last one leads to RX_CHECK; no other byte of PKT
changes, exactly that byte is consumed, and nothing is sent. It is stored whatever the deadline (D17, R217) and after a full
service pass (D16), notes/assumptions/25.md. -/
def Obligations.BodyBytesAreStoredInOrder : Prop :=
  ∀ (s s0 : State) (ts : List Task) (b : Byte) (bs : List Byte), coreTurn s s0 → RingOk s0 →
    s0.pending = .rx :: ts → s0.rxState = .body → s0.pktIdx.toNat ≤ s0.pktSize.toNat + 4 →
    (ringBytes s0 ++ s0.hwfifo).take 4096 = b :: bs →
    ∃ t, step s = .next t ∧ t.pkt.read s0.pktIdx.toNat = some b ∧
      (∀ a, a ≠ s0.pktIdx.toNat → t.pkt.read a = s0.pkt.read a) ∧
      t.pktIdx.toNat = s0.pktIdx.toNat + 1 ∧ t.pktSize = s0.pktSize ∧
      t.rxState = (if s0.pktIdx.toNat = s0.pktSize.toNat + 4 then .check else .body) ∧
      t.pending = .rx :: ts ∧ ringBytes t = bs ∧ t.hwfifo = [] ∧ t.txlog = s0.txlog ∧ t.outcome = s0.outcome ∧
      t.tolRem = s0.tolRem ∧ t.phase = s0.phase ∧ t.dest = s0.dest

/-- R138, R139: a read that returns none ends the call with `Timeout`, in the leading position and in the body; what is
partly read is discarded: no byte of PKT can be read as a packet afterwards (the model's reading of U9,
notes/assumptions/7.md). With the deadline not passed the read goes on waiting (R116, D17). -/
def Obligations.MissingByteIsTimeout : Prop :=
  ∀ (s s0 : State) (ts : List Task), coreTurn s s0 → RingOk s0 → s0.pending = .rx :: ts →
    (s0.rxState = .tag ∨ (s0.rxState = .body ∧ s0.pktIdx.toNat ≤ s0.pktSize.toNat + 4)) →
    ringBytes s0 = [] → s0.hwfifo = [] →
    (expired s0.par.cntW s0.counter s0.deadline = true →
      ∃ t, step s = .next t ∧ t = { s0 with pending := ts, outcome := .timeout, rxState := .idle } ∧
        (∀ i, pktAt t i = none) ∧ payloadOf t = none) ∧
    (expired s0.par.cntW s0.counter s0.deadline = false → step s = .next s0)

/-- R140, R141, R142: a complete body is `Ok` exactly where the pair is valid and the check value over sequence, complement,
payload and CRC is zero, else `ProtocolError`; with `Ok` go the sequence number and the payload. -/
def Obligations.CompletePacketIsClassified : Prop :=
  ∀ (s s0 : State) (ts : List Task) (seq cmpl : Byte) (rest : List Byte), coreTurn s s0 →
    s0.pending = .rx :: ts → s0.rxState = .check →
    s0.pkt.readAll 1 (s0.pktSize.toNat + 4) = some (seq :: cmpl :: rest) →
    ∃ t, step s = .next t ∧ t = { s0 with pending := ts, rxState := .idle, crc := t.crc, outcome := t.outcome } ∧
      (seq ≠ cmpl ^^^ 0xFF#8 → t.outcome = .protocolError ∧ t.crc = s0.crc) ∧
      (seq = cmpl ^^^ 0xFF#8 → t.crc = crc16 (seq :: cmpl :: rest) ∧
        t.outcome = if crc16 (seq :: cmpl :: rest) = 0 then .ok else .protocolError) ∧
      (t.outcome = .ok → seqOf t = some seq ∧ payloadOf t = some (rest.take s0.pktSize.toNat))

/-- R146, R147: a `receive` run byte by byte gives the Outcome of the algorithm in one piece, consumes exactly its bytes,
leaves the rest in the ring, sends nothing, and with `Ok` holds the packet it consumed. That the tolerance is tested before
it is lowered is D12, and that no premise on the deadline is needed is D17 (notes/assumptions/25.md). -/
def Obligations.ReceiveIsTheOnePieceAlgorithm : Prop :=
  ∀ (s : State) (tol : BitVec 2) (ts : List Task) (o : RecvOutcome) (n : Nat),
    RingOk s → s.script = [] → s.hwfifo = [] → s.rxState = .idle → s.pending = .call (.receive tol) :: ts →
    receivePiece tol.toNat (ringBytes s) = some (o, n) →
    ∃ k t, runSteps k s = .next t ∧ t.rxState = .idle ∧ t.outcome = o ∧ t.pending = ts ∧ RingOk t ∧
      ringBytes t = (ringBytes s).drop n ∧ t.txlog = s.txlog ∧ t.dest = s.dest ∧
      (o = .ok → t.pktSize.toNat + 5 ≤ n ∧
        seqOf t = (ringBytes s)[n - t.pktSize.toNat - 4]? ∧
        payloadOf t = some (((ringBytes s).drop (n - t.pktSize.toNat - 2)).take t.pktSize.toNat))

/-- R144, R145: while a `receive` is in progress nothing is sent, and the pending bytes stay, or lose the oldest and what is
beyond the 4096 that the ring holds (R111, R122; that a service pass moves everything at once is D16,
notes/assumptions/25.md). -/
def Obligations.ReceiveNeitherSendsNorDiscards : Prop :=
  ∀ (s s0 t : State) (ts : List Task), coreTurn s s0 → RingOk s0 → s0.pending = .rx :: ts → step s = .next t →
    t.txlog = s0.txlog ∧ t.line = s0.line ∧ t.dest = s0.dest ∧ t.phase = s0.phase ∧
    (ringBytes t ++ t.hwfifo = ringBytes s0 ++ s0.hwfifo ∨
     ringBytes t ++ t.hwfifo = ((ringBytes s0 ++ s0.hwfifo).take 4096).tail)

/-! ## Session Controller: the phase steps and the header -/

/-- R151, R162, R171: what each phase step begins with. That the attempt's discard empties HWFIFO and the ring at once is
D18 (R121, notes/assumptions/25.md); that a step stops in another phase is the model's choice (notes/assumptions/17.md). -/
def Obligations.PhaseStepsBegin : Prop :=
  ∀ s : State,
    (s.phase = .a → exec .phaseAAttempt s = .next
      { s with hwfifo := [], ringRd := s.ringWr, ringCnt := 0,
               pending := .call .crq :: .call (.receive 3) :: .dispatch :: s.pending }) ∧
    (∀ i p, (i, p) ∈ [(Instr.phaseBStep, Phase.b), (.phaseCStep, .c)] → s.phase = p → s.rxState = .idle →
      exec i s = .next { s with tolRem := 0, rxState := .tag, deadline := (s.counter + s.par.readTimeoutTicks) % 2 ^ s.par.cntW,
                                pending := .rx :: .dispatch :: s.pending }) ∧
    (∀ i p, (i, p) ∈ [(Instr.phaseAAttempt, Phase.a), (.phaseBStep, .b), (.phaseCStep, .c)] → s.phase ≠ p →
      exec i s = .fault .wrongPhase)

/-- R152, R218: a packet with sequence 0 in Phase A is parsed as the header, and exactly one of the three branches follows:
malformed, over the capacity, accepted, in that order (the first two are the spec's choices D14, D15,
notes/assumptions/12.md). The size is not consulted (R153). -/
def Obligations.HeaderIsParsedThenSorted : Prop :=
  ∀ (s : State) (p : List Byte), s.phase = .a → s.outcome = .ok → seqOf s = some 0 → payloadOf s = some p →
    selectBranch s = .ok .aOkSeq0 ∧
    exec .aOkSeq0 s = .next { s with pending := .call (.parseLen p s.pktSize.toNat) :: .header :: s.pending } ∧
    (declaredLength s.par.lenW p = none → selectHeader s = .ok .aHeaderMalformed) ∧
    (∀ n, declaredLength s.par.lenW p = some n → s.par.destCap < n → selectHeader s = .ok .aLenExceedsCap) ∧
    (∀ n, declaredLength s.par.lenW p = some n → n ≤ s.par.destCap → selectHeader s = .ok .aHeaderAccepted)

/-- R82, R83: name, NUL, digits, space: the number the digits write, whatever the name is and whatever follows, at every
width of the length registers. That the name may be empty and leading zeros may stand is D14 (notes/assumptions/12.md). -/
def Obligations.WellFormedHeaderLength : Prop :=
  ∀ (lenW : Nat) (name digits rest : List Byte), 0x00#8 ∉ name → digits ≠ [] →
    (∀ c ∈ digits, 0x30#8 ≤ c ∧ c ≤ 0x39#8) → decimalValue digits < 2 ^ lenW →
    declaredLength lenW (name ++ 0x00#8 :: digits ++ 0x20#8 :: rest) = some (decimalValue digits)

/-- The spec's own choice D14 (notes/assumptions/12.md): no NUL, no digit, a byte that is no digit before the space, no
space, and a number of 2^LEN_W or more are malformed. -/
def Obligations.MalformedHeaderLength : Prop :=
  ∀ (lenW : Nat) (name digits rest : List Byte), 0x00#8 ∉ name → (∀ c ∈ digits, 0x30#8 ≤ c ∧ c ≤ 0x39#8) →
    declaredLength lenW name = none ∧
    declaredLength lenW (name ++ 0x00#8 :: digits) = none ∧
    declaredLength lenW (name ++ 0x00#8 :: 0x20#8 :: rest) = none ∧
    (∀ c, (c < 0x30#8 ∨ 0x39#8 < c) → c ≠ 0x20#8 →
      declaredLength lenW (name ++ 0x00#8 :: digits ++ c :: rest) = none) ∧
    (2 ^ lenW ≤ decimalValue digits →
      declaredLength lenW (name ++ 0x00#8 :: digits ++ 0x20#8 :: rest) = none)

/-- R154: an accepted header sets TOTAL and is answered with ACK C; Phase B follows; nothing is discarded. While the
transmit path is not ready the branch waits. The service pass before the first readiness test is D16
(notes/assumptions/25.md); that a waiting branch is run again as a whole is notes/assumptions/15.md, that TOTAL is set while
it waits and PHASE by a step of its own is notes/assumptions/16.md. -/
def Obligations.HeaderAcceptedLeadsToPhaseB : Prop :=
  ∀ (s : State) (p : List Byte) (n : Nat), s.phase = .a → s.outcome = .ok → seqOf s = some 0 → payloadOf s = some p →
    declaredLength s.par.lenW p = some n → n ≤ s.par.destCap →
    (s.txReady = true → exec .aHeaderAccepted s = .next
      { serviceRx s with total := some n, txlog := s.txlog ++ [0x06#8], pending := .call .crq :: .enterB :: s.pending }) ∧
    (s.txReady = false → exec .aHeaderAccepted s = .next
      { serviceRx s with total := some n, pending := .call .aHeaderAccepted :: s.pending }) ∧
    (s.txReady = true → s.script = [] →
      runSteps 3 { s with pending := .call .aHeaderAccepted :: s.pending } = .next
        { serviceRx s with total := some n, txlog := s.txlog ++ [0x06#8, 0x43#8], phase := .b,
                           pending := .call .phaseBStep :: s.pending })

/-! ## Session Controller: failures -/

/-- R178: the abort procedure sends four cancel bytes and four backspace bytes, then drains all pending input, and changes
no session register. The run rests on D16 (the service passes) and D18 (the drain in one piece), notes/assumptions/25.md. -/
def Obligations.AbortProcedureSendsAndDrains : Prop :=
  ∀ (s : State) (ts : List Task),
    exec .abortProcedure s = .next { s with pending := .call .abortSeq :: .call .discardInput :: s.pending } ∧
    exec .abortSeq s = .next
      { s with pending := [.call .canTx, .call .canTx, .call .canTx, .call .canTx,
                           .call .bs, .call .bs, .call .bs, .call .bs] ++ s.pending } ∧
    (s.txReady = true → s.script = [] →
      runSteps 11 { s with pending := .call .abortProcedure :: ts } =
        .next { afterAbortProcedure s with pending := ts })

/-- R157, R168, R170, R175, R176: these branches run the abort procedure (R178) and fail the session. The run rests on D16
(the service passes) and D18 (the drain in one piece), notes/assumptions/25.md. -/
def Obligations.ProtocolErrorsAndTimeoutsAbort : Prop :=
  ∀ e ∈ abortingBranches, ∀ s : State, s.phase = e.2.1 → s.outcome = e.2.2.1 →
    exec e.1 s = .next { s with pending := .call .abortProcedure :: .call (.fail e.2.2.2) :: s.pending } ∧
    (s.txReady = true → s.script = [] →
      runSteps 13 { s with pending := .call e.1 :: s.pending } =
        .next (recordsFailure e.2.2.2 (afterAbortProcedure s)))

/-- R166: a packet that would exceed TOTAL is not acknowledged and not copied, not even in part: the abort procedure (R178)
runs and the session fails. The run rests on D16 and D18 (notes/assumptions/25.md). -/
def Obligations.OverrunAborts : Prop :=
  ∀ (s : State) (t : Nat), s.phase = .b → s.outcome = .ok → seqOf s = some s.expSeq → s.total = some t →
    t < s.rcvd + s.pktSize.toNat →
    selectBranch s = .ok .bOkOverrun ∧
    exec .bOkOverrun s = .next { s with pending := .call .abortProcedure :: .call (.fail .dataOverrun) :: s.pending } ∧
    (s.txReady = true → s.script = [] →
      runSteps 13 { s with pending := .call .bOkOverrun :: s.pending } =
        .next (recordsFailure .dataOverrun (afterAbortProcedure s)))

/-- The spec's own choices (notes/assumptions/12.md, 13.md): an end-of-transfer marker in the handshake (D13), a malformed
header (D14) and a length over the capacity (D15) lead to the abort procedure and a failure, no ACK; a packet in Phase C
fails the session, after the abort procedure only with TERM_OK_ABORTS (D24). -/
def Obligations.DecidedFailures : Prop :=
  ∀ s : State,
    (s.phase = .a → s.outcome = .endOfTransfer → exec .aEndOfTransfer s = .next
      { s with pending := .call .abortProcedure :: .call (.fail .hsUnexpectedEot) :: s.pending }) ∧
    (∀ p, s.phase = .a → s.outcome = .ok → seqOf s = some 0 → payloadOf s = some p →
      (declaredLength s.par.lenW p = none → exec .aHeaderMalformed s = .next
        { s with pending := .call .abortProcedure :: .call (.fail .hsBadHeader) :: s.pending }) ∧
      (∀ n, declaredLength s.par.lenW p = some n → s.par.destCap < n → exec .aLenExceedsCap s = .next
        { s with pending := .call .abortProcedure :: .call (.fail .hsLenExceedsCap) :: s.pending })) ∧
    (s.phase = .c → s.outcome = .ok → s.par.termOkAborts = true → exec .cOk s = .next
      { s with pending := .call .abortProcedure :: .call (.fail .termUnexpectedPacket) :: s.pending }) ∧
    (s.phase = .c → s.outcome = .ok → s.par.termOkAborts = false → exec .cOk s = .next
      (recordsFailure .termUnexpectedPacket s))

/-- R158: `Abort` in the handshake is acknowledged and the session fails; no abort procedure, no discard. The service pass
before the first readiness test is D16 (notes/assumptions/25.md); that the waiting branch is run again as a whole is
notes/assumptions/15.md. -/
def Obligations.HandshakeAbortIsAcknowledged : Prop :=
  ∀ s : State, s.phase = .a → s.outcome = .abort →
    (s.txReady = true → exec .aAbort s = .next
      (recordsFailure .hsAbort { serviceRx s with txlog := s.txlog ++ [0x06#8] })) ∧
    (s.txReady = false → exec .aAbort s = .next { serviceRx s with pending := .call .aAbort :: s.pending })

/-- R169, R177: `Abort` in Phase B or C fails at once: nothing is sent, nothing is discarded. -/
def Obligations.LaterAbortsFailAtOnce : Prop :=
  ∀ s : State, s.outcome = .abort →
    (s.phase = .b → exec .bAbort s = .next (recordsFailure .dataAbort s)) ∧
    (s.phase = .c → exec .cAbort s = .next (recordsFailure .termAbort s))

/-- R159, R161: a nonzero sequence in the handshake is answered with NAK; it and a timeout lead to a new attempt, which
begins as PhaseStepsBegin states. The service pass before the first readiness test is D16 (notes/assumptions/25.md); that
the waiting branch is run again as a whole is notes/assumptions/15.md. -/
def Obligations.HandshakeRetries : Prop :=
  ∀ s : State, s.phase = .a →
    (s.outcome = .timeout → exec .aTimeout s = .next { s with pending := .call .phaseAAttempt :: s.pending }) ∧
    (∀ q, s.outcome = .ok → seqOf s = some q → q ≠ 0 →
      (s.txReady = true → exec .aOkSeqNonzero s = .next
        { serviceRx s with txlog := s.txlog ++ [0x15#8], pending := .call .phaseAAttempt :: s.pending }) ∧
      (s.txReady = false → exec .aOkSeqNonzero s = .next
        { serviceRx s with pending := .call .aOkSeqNonzero :: s.pending }))

/-! ## Session Controller: data and termination -/

/-- R163: the marker with all the data received: ACK C, then Phase C. The service pass before the first readiness test is
D16 (notes/assumptions/25.md); that a waiting branch is run again as a whole is notes/assumptions/15.md, that PHASE is
changed by a step of its own notes/assumptions/16.md. -/
def Obligations.EotWithAllDataLeadsToPhaseC : Prop :=
  ∀ (s : State) (t : Nat), s.phase = .b → s.outcome = .endOfTransfer → s.total = some t → t ≤ s.rcvd →
    selectBranch s = .ok .bEotComplete ∧
    (s.txReady = true → exec .bEotComplete s = .next
      { serviceRx s with txlog := s.txlog ++ [0x06#8], pending := .call .crq :: .enterC :: s.pending }) ∧
    (s.txReady = false → exec .bEotComplete s = .next
      { serviceRx s with pending := .call .bEotComplete :: s.pending }) ∧
    (s.txReady = true → s.script = [] →
      runSteps 3 { s with pending := .call .bEotComplete :: s.pending } = .next
        { serviceRx s with txlog := s.txlog ++ [0x06#8, 0x43#8], phase := .c,
                           pending := .call .phaseCStep :: s.pending })

/-- R164, R179: the marker with too little data: ACK C, the abort procedure, the report, then a failure. With a DIAG_TEXT of
no byte for the cause the session has ended after 15 steps. The run rests on D16 and D18 (notes/assumptions/25.md), the
report on D9 (notes/assumptions/28.md), the waiting branch on notes/assumptions/15.md. -/
def Obligations.EotWithTooLittleDataFails : Prop :=
  ∀ (s : State) (t : Nat), s.phase = .b → s.outcome = .endOfTransfer → s.total = some t → s.rcvd < t →
    selectBranch s = .ok .bEotShort ∧
    (s.txReady = true → exec .bEotShort s = .next
      { serviceRx s with
        txlog := s.txlog ++ [0x06#8],
        pending := [.call .crq, .call .abortProcedure, .call (.report .dataShort), .call (.fail .dataShort)] ++
          s.pending }) ∧
    (s.txReady = false → exec .bEotShort s = .next { serviceRx s with pending := .call .bEotShort :: s.pending }) ∧
    (s.txReady = true → s.script = [] → diagTextOf s.par .dataShort = [] →
      runSteps 15 { s with pending := .call .bEotShort :: s.pending } = .next
        (recordsFailure .dataShort
          { afterAbortProcedure s with
            txlog := s.txlog ++ [0x06#8, 0x43#8, 0x18#8, 0x18#8, 0x18#8, 0x18#8, 0x08#8, 0x08#8, 0x08#8, 0x08#8] }))

/-- R165: a packet with an unexpected sequence number: NAK, then the pending input is discarded and the next step runs;
EXP_SEQ, RCVD and DEST are unchanged. The service pass is D16, the discard in one piece D18 (notes/assumptions/25.md), the
waiting branch notes/assumptions/15.md. -/
def Obligations.UnexpectedSequenceIsRefused : Prop :=
  ∀ (s : State) (q : Byte), s.phase = .b → s.outcome = .ok → seqOf s = some q → q ≠ s.expSeq →
    (s.txReady = true → exec .bOkWrongSeq s = .next
      { serviceRx s with txlog := s.txlog ++ [0x15#8],
                         pending := .call .discardInput :: .call .phaseBStep :: s.pending }) ∧
    (s.txReady = false → exec .bOkWrongSeq s = .next
      { serviceRx s with pending := .call .bOkWrongSeq :: s.pending }) ∧
    (s.txReady = true → s.script = [] →
      runSteps 2 { s with pending := .call .bOkWrongSeq :: s.pending } = .next
        { serviceRx s with txlog := s.txlog ++ [0x15#8], ringRd := (serviceRx s).ringWr, ringCnt := 0,
                           pending := .call .phaseBStep :: s.pending })

/-- R167, R60, R65 (b): an expected packet that fits: ACK and the next sequence number modulo 256, then the payload byte by
byte: after `k` of the copy's steps exactly the bytes below `k` stand at DEST[RCVD + i], and after the last RCVD is advanced
by the size. No other byte of the HOST's memory changes. The service pass is D16 (notes/assumptions/25.md); that ACK and
EXP_SEQ are one step, and the last byte and RCVD, is notes/assumptions/15.md. -/
def Obligations.ExpectedPacketIsAppended : Prop :=
  ∀ (s : State) (t : Nat) (base : Nat) (p : List Byte), s.phase = .b → s.outcome = .ok → seqOf s = some s.expSeq →
    s.total = some t → s.rcvd + s.pktSize.toNat ≤ t → t ≤ s.par.destCap → s.destRef = some base →
    payloadOf s = some p →
    selectBranch s = .ok .bOkAccept ∧
    (s.txReady = true → exec .bOkAccept s = .next
      { serviceRx s with txlog := s.txlog ++ [0x06#8], expSeq := s.expSeq + 1, pending := .copy 0 :: s.pending }) ∧
    (s.txReady = false → exec .bOkAccept s = .next { serviceRx s with pending := .call .bOkAccept :: s.pending }) ∧
    (s.expSeq + 1).toNat = (s.expSeq.toNat + 1) % 256 ∧
    (s.txReady = true → s.script = [] →
      (∀ k, k ≤ s.pktSize.toNat →
        ∃ u, runSteps (1 + k) { s with pending := .call .bOkAccept :: s.pending } = .next u ∧
          u = { serviceRx s with
            txlog := s.txlog ++ [0x06#8], expSeq := s.expSeq + 1, dest := u.dest,
            rcvd := if k < s.pktSize.toNat then s.rcvd else s.rcvd + s.pktSize.toNat,
            pending := (if k < s.pktSize.toNat then .copy k else .call .phaseBStep) :: s.pending } ∧
          (∀ i, i < k → u.dest.read (base + s.rcvd + i) = s.pkt.read (3 + i)) ∧
          (∀ a, (a < base + s.rcvd ∨ base + s.rcvd + k ≤ a) → u.dest.read a = s.dest.read a)))

/-- R172: the marker in Phase C is acknowledged and the session succeeds with TOTAL. The service pass before the first
readiness test is D16 (notes/assumptions/25.md); that the waiting branch is run again as a whole is
notes/assumptions/15.md. -/
def Obligations.TerminationSucceedsWithTotal : Prop :=
  ∀ (s : State) (t : Nat), s.phase = .c → s.outcome = .endOfTransfer → s.total = some t →
    (s.txReady = true → exec .cEndOfTransfer s = .next
      { serviceRx s with txlog := s.txlog ++ [0x06#8], result := some (.success t), phase := .idle,
                         pending := [.call .done] }) ∧
    (s.txReady = false → exec .cEndOfTransfer s = .next
      { serviceRx s with pending := .call .cEndOfTransfer :: s.pending })

/-- R89, R93, R218: when `receive` has returned in a session, a BRANCH row answers a next state exactly where phase, outcome
and condition select it. That A.end_of_transfer, A.header_malformed and A.len_exceeds_cap, for which R160, R155 and R156 let a
model fault, answer one too is the spec's choice D13 to D15 (notes/assumptions/12.md); that a row stops as not selected
elsewhere is the model's (notes/assumptions/17.md). -/
def Obligations.ExactlyTheSelectedBranchRuns : Prop :=
  ∀ (s : State) (i : Instr), s.rxState = .idle → returned s → SessionOk s → isBranch i = true →
    (selected s i → ∃ t, exec i s = .next t) ∧
    (¬ selected s i → exec i s = .fault .branchNotSelected)

/-- R179, R180, R196: the ends of a session and what is reported (DIAG_TEXT and FAIL_CAUSE are the spec's choices D9, D11).
That `done` stops without a RESULT is the model's choice (notes/assumptions/17.md). -/
def Obligations.SessionEndsComplete : Prop :=
  ∀ s : State,
    (∀ c, exec (.report c) s = .next
      { s with pending := (diagTextOf s.par c).map (fun b => .call (.writeByte b)) ++ s.pending }) ∧
    (∀ c, s.phase ≠ .idle → exec (.fail c) s = .next (recordsFailure c s)) ∧
    (∀ n, s.phase = .c → exec (.succeed n) s = .next
      { s with result := some (.success n), phase := .idle, pending := [.call .done] }) ∧
    (∀ r, s.phase = .idle → s.result = some r → exec .done s = .next { s with handed := s.handed ++ [r] }) ∧
    (s.result = none → exec .done s = .fault .resultNoValue)

/-! ## Boundary -/

/-- R47, R195, R244: `start` in IDLE sets the session registers and begins Phase A without touching the ring, HWFIFO, TXLOG
or the HOST's memory; while a session runs it is ignored (D20). What R47 calls unspecified after `start` is free
(notes/assumptions/11.md), so this statement says nothing of it. R197: the HOST's top-level loop, at rest, starts a session
when none has ended since power-up and again after a failure, and none after a success; while a session runs it waits (how
the loop knows is the model's, notes/assumptions/35.md). -/
def Obligations.StartBeginsASession : Prop :=
  (∀ (s : State) (d : Nat),
    (s.phase = .idle → ∃ t, exec (.start d) s = .next t ∧
      t = { s with destRef := some d, expSeq := 1, rcvd := 0, total := none, failCause := .none, result := none,
                   phase := .a, rxState := .idle, outcome := t.outcome, pktIdx := t.pktIdx, tolRem := t.tolRem,
                   pktSize := t.pktSize, free := s.free + 1, pending := .call .phaseAAttempt :: s.pending }) ∧
    (s.phase ≠ .idle → exec (.start d) s = .next s)) ∧
  (∀ (s : State) (d : Nat) (es : List Event), s.script = .hostLoop d :: es →
    (s.phase = .idle → s.pending = [] → (s.handed = [] ∨ ∃ rs, s.handed = rs ++ [.failure]) →
      step s = exec (.start d) { s with script := es }) ∧
    (s.phase = .idle → s.pending = [] → (∃ rs n, s.handed = rs ++ [.success n]) →
      step s = .next { s with script := es }) ∧
    ((s.phase ≠ .idle ∨ s.pending ≠ []) → step s = .next { s with script := es })) ∧
  State.reset.handed = []

/-- R47 column "after power-up", R191, R192, R240: `hw_init` empties both receive buffers; `reset` is power-up, with the
HOST's memory and LINE untouched (notes/assumptions/5.md), and leaves the one call of `hw_init` pending; that call comes to be
pending in no other way, and is pending only before the first session since power-up (R191; how is notes/assumptions/4.md);
State.reset is the state after both and holds every value the table states. The table's values but one are the spec's choice
D21; the values it calls unspecified are the model's (notes/assumptions/3.md) and are not stated here. -/
def Obligations.PowerUpValues : Prop :=
  (∀ s : State,
    exec .hwInit s = .next { s with hwfifo := [], ringWr := 0, ringRd := 0, ringCnt := 0 } ∧
    (∃ t, exec .reset s = .next t ∧ t.dest = s.dest ∧ t.line = s.line ∧ t.par = s.par ∧ t.script = s.script ∧
      t = { State.reset with dest := s.dest, line := s.line, par := s.par, script := s.script, free := s.free,
                             pending := [.call .hwInit] }) ∧
    (∀ ts, s.script = [] → runSteps 2 { s with pending := .call .reset :: ts } =
      .next { State.reset with dest := s.dest, line := s.line, par := s.par, free := s.free })) ∧
  (∀ s t : State, step s = .next t → .call .hwInit ∈ t.pending →
    .call .hwInit ∈ s.pending ∨ (∃ es, s.script = .hostReset :: es) ∨ ∃ ts, s.pending = .call .reset :: ts) ∧
  (∀ s : State, Inv s → .call .hwInit ∈ s.pending →
    s.pending = [.call .hwInit] ∧ s.phase = .idle ∧ s.destRef = none ∧ s.handed = []) ∧
  State.reset.ringWr = 0 ∧ State.reset.ringRd = 0 ∧ State.reset.ringCnt = 0 ∧ State.reset.failCause = .none ∧
  State.reset.rxState = .idle ∧ State.reset.phase = .idle ∧ State.reset.total = none ∧ State.reset.destRef = none ∧
  State.reset.result = none ∧ State.reset.hwfifo = [] ∧ State.reset.txlog = [] ∧ State.reset.pending = []

/-! ## The whole machine -/

/-- The invariant holds after reset. -/
def Obligations.ResetMeetsTheInvariant : Prop := Inv State.reset

/-- R25, R31, R40, R50, R123, R182: every step keeps the invariant. -/
def Obligations.StepKeepsTheInvariant : Prop := ∀ s t : State, Inv s → step s = .next t → Inv t

/-- R47, R230, U9: under the invariant no step faults or is refused: no rule reads state without value, no operation is run
outside its condition, no write leaves DEST. That holds because the cases U1 to U3, for which R155, R156 and R160 let a
model fault, take the spec's decided effects D13 to D15 instead (notes/assumptions/12.md). -/
def Obligations.InvariantNeverFaults : Prop := ∀ s : State, Inv s → ∃ t, step s = .next t

/-- R33: PHASE starts IDLE, moves only as the rule says, and success comes from Phase C only. -/
def Obligations.PhaseMovesAsAllowed : Prop :=
  State.reset.phase = .idle ∧
  (∀ s t : State, Inv s → step s = .next t →
    phaseMayGo s.phase t.phase = true ∨ ∃ es, s.script = .hostReset :: es ∧ t.phase = .idle) ∧
  (∀ (s t : State) (n : Nat), Inv s → step s = .next t → t.result ≠ s.result → t.result = some (.success n) → s.phase = .c)

/-- R71, R182 (e): a session that succeeds has received exactly TOTAL bytes, and that is its result. -/
def Obligations.SuccessMeansAllReceived : Prop :=
  ∀ (s t : State) (n : Nat), Inv s → step s = .next t → t.result ≠ s.result → t.result = some (.success n) →
    s.total = some n ∧ s.rcvd = n ∧ n ≤ s.par.destCap ∧ n % 128 = 0

/-- R43, R167, R261: the HOST's memory changes only by a byte of the accepting branch's payload copy, at DEST[RCVD + i], or by
the HOST itself; no instruction's own step changes it, and only B.ok_accept begins a copy. That a byte is one step is
notes/assumptions/15.md. -/
def Obligations.OnlyAcceptanceWritesDest : Prop :=
  (∀ s t : State, step s = .next t → t.dest ≠ s.dest →
    (∃ a b es, s.script = .hostWrite a b :: es ∧ t.dest = s.dest.write a b) ∨
    (∃ s0 i ts b base, coreTurn s s0 ∧ s0.pending = .copy i :: ts ∧ s0.outcome = .ok ∧ s0.pkt.read (3 + i) = some b ∧
      s0.destRef = some base ∧ s0.rcvd + i < s0.par.destCap ∧ t.dest = s0.dest.write (base + (s0.rcvd + i)) b ∧
      (Inv s → s0.phase = .b ∧ i < s0.pktSize.toNat))) ∧
  (∀ (i : Instr) (s t : State), exec i s = .next t →
    t.dest = s.dest ∧ (∀ k ts, t.pending = .copy k :: ts → s.pending ≠ t.pending → i = .bOkAccept ∧ k = 0))

/-- R57, R64: a step sends at most one byte, and what was sent stays sent until power-up. -/
def Obligations.TransmitTraceOnlyGrows : Prop :=
  ∀ s t : State, (∀ es, s.script ≠ .hostReset :: es) → (∀ ts, s.pending ≠ .call .reset :: ts) → step s = .next t →
    t.txlog = s.txlog ∨ ∃ b, t.txlog = s.txlog ++ [b]

/-- R41, R44, R45: no operation but `reset` touches the counter, and none touches LINE, the parameters, the script; TX_READY
is the environment's. That `reset` keeps LINE is the model's reading of R192 (notes/assumptions/5.md), that `hw_init` keeps
TX_READY its reading of R191 (notes/assumptions/27.md). -/
def Obligations.OperationsLeaveTheEnvironmentAlone : Prop :=
  ∀ (i : Instr) (s t : State), exec i s = .next t →
    t.line = s.line ∧ t.par = s.par ∧ t.script = s.script ∧
    (i ≠ .reset → t.counter = s.counter ∧ t.txReady = s.txReady)

/-- R220: a failing step writes none of DEST, EXP_SEQ, RCVD, TOTAL. -/
def Obligations.FailingStepsArePrecise : Prop :=
  ∀ s t : State, step s = .next t → t.result ≠ s.result → t.result = some .failure →
    t.dest = s.dest ∧ t.expSeq = s.expSeq ∧ t.rcvd = s.rcvd ∧ t.total = s.total
end

