-- ==== Sys2Proof/Laws/Memory.lean ====
section
/-! SUPPORT. The laws of byte memory: a read after a write, the canonical form, and runs of bytes. -/

namespace Sys2Proof.Machine

theorem read_write (m : Memory) (a : Nat) (b : Byte) (x : Nat) :
    (m.write a b).read x = if x = a then some b else m.read x := by
  induction m with
  | nil => simp [Memory.write, Memory.read, eq_comm]
  | cons c m ih =>
    obtain ⟨k, v⟩ := c
    simp only [Memory.write]
    split
    · simp only [Memory.read, eq_comm]
    · split
      · next h => subst h; simp only [Memory.read]; split <;> simp_all [eq_comm]
      · simp only [Memory.read, ih]
        split <;> split <;> simp_all

@[simp] theorem read_write_same (m : Memory) (a : Nat) (b : Byte) : (m.write a b).read a = some b := by
  simp [read_write]

theorem read_write_other (m : Memory) {a x : Nat} (b : Byte) (h : x ≠ a) : (m.write a b).read x = m.read x := by
  simp [read_write, h]

theorem mem_write {m : Memory} {a : Nat} {b : Byte} {c : Host.Cell} (h : c ∈ m.write a b) : c = (a, b) ∨ c ∈ m := by
  induction m with
  | nil => simpa [Memory.write] using h
  | cons d m ih =>
    obtain ⟨k, v⟩ := d
    simp only [Memory.write] at h
    split at h
    · simpa using h
    · split at h
      · rcases List.mem_cons.1 h with h | h
        · exact .inl h
        · exact .inr (List.mem_cons_of_mem _ h)
      · rcases List.mem_cons.1 h with h | h
        · exact .inr (h ▸ List.mem_cons_self)
        · exact (ih h).imp id (List.mem_cons_of_mem _)

/-- A write keeps the canonical form. -/
theorem write_wf {m : Memory} (h : m.wf) (a : Nat) (b : Byte) : (m.write a b).wf := by
  induction m with
  | nil => simp [Memory.write, Memory.wf]
  | cons c m ih =>
    obtain ⟨k, v⟩ := c
    have hk := List.pairwise_cons.1 h
    simp only [Memory.write]
    split
    · next hlt =>
      refine List.pairwise_cons.2 ⟨fun d hd => ?_, h⟩
      rcases List.mem_cons.1 hd with rfl | hd
      · exact hlt
      · exact Nat.lt_trans hlt (hk.1 d hd)
    · split
      · next heq => subst heq; exact List.pairwise_cons.2 ⟨hk.1, hk.2⟩
      · next hlt hne =>
        refine List.pairwise_cons.2 ⟨fun d hd => ?_, ih hk.2⟩
        rcases mem_write hd with rfl | hd
        · show k < a
          omega
        · exact hk.1 d hd

theorem write_range {m : Memory} {n a : Nat} (h : ∀ c ∈ m, c.1 < n) (ha : a < n) (b : Byte) :
    ∀ c ∈ m.write a b, c.1 < n := fun c hc => by
  rcases mem_write hc with rfl | hc
  · exact ha
  · exact h c hc

/-- A run that is stored is read whole. -/
theorem readAll_isSome {m : Memory} (n a : Nat) (h : ∀ i, i < n → (m.read (a + i)).isSome = true) :
    ∃ bs, m.readAll a n = some bs ∧ bs.length = n := by
  induction n generalizing a with
  | zero => exact ⟨[], rfl, rfl⟩
  | succ n ih =>
    obtain ⟨b, hb⟩ := Option.isSome_iff_exists.1 (h 0 (by omega))
    obtain ⟨bs, hbs, hl⟩ := ih (a + 1) fun i hi => by
      have := h (i + 1) (by omega)
      rwa [show a + 1 + i = a + (i + 1) by omega]
    rw [Nat.add_zero] at hb
    exact ⟨b :: bs, by simp [Memory.readAll, hb, hbs], by simp [hl]⟩

/-- The bytes a run is read as. -/
theorem readAll_get {m : Memory} {n a : Nat} {bs : List Byte} (h : m.readAll a n = some bs) (i : Nat) (hi : i < n) :
    m.read (a + i) = bs[i]? := by
  induction n generalizing a bs i with
  | zero => omega
  | succ n ih =>
    simp only [Memory.readAll] at h
    split at h
    · cases h
    · next b hb =>
      obtain ⟨cs, hcs, rfl⟩ := Option.map_eq_some_iff.1 h
      cases i with
      | zero => simpa using hb
      | succ i =>
        rw [show a + (i + 1) = a + 1 + i by omega, ih hcs i (by omega)]
        simp

theorem readAll_length {m : Memory} {n a : Nat} {bs : List Byte} (h : m.readAll a n = some bs) : bs.length = n := by
  induction n generalizing a bs with
  | zero => simp [Memory.readAll] at h; simp [← h]
  | succ n ih =>
    simp only [Memory.readAll] at h
    split at h
    · cases h
    · obtain ⟨cs, hcs, rfl⟩ := Option.map_eq_some_iff.1 h
      simp [ih hcs]

theorem holds_write {m : Memory} {n : Nat} (h : m.holds n) (a : Nat) (b : Byte) : (m.write a b).holds n := fun i hi => by
  rw [read_write]; split
  · rfl
  · exact h i hi

/-- Writing the next byte extends a stored run. -/
theorem holds_write_next {m : Memory} {n : Nat} (h : m.holds n) (b : Byte) : (m.write n b).holds (n + 1) := fun i hi => by
  rw [read_write]; split
  · rfl
  · exact h i (by omega)

end Sys2Proof.Machine
end

