-- ==== Sys2Proof/Laws/State.lean ====
section
/-! SUPPORT. What each named update of the state leaves in each field: one lemma per field per update. -/

namespace Sys2Proof.Machine

/-! ## push -/

section
variable (ts : List Task) (s : State)

@[simp] theorem push_crc : (s.push ts).crc = s.crc := rfl
@[simp] theorem push_ring : (s.push ts).ring = s.ring := rfl
@[simp] theorem push_ringWr : (s.push ts).ringWr = s.ringWr := rfl
@[simp] theorem push_ringRd : (s.push ts).ringRd = s.ringRd := rfl
@[simp] theorem push_ringCnt : (s.push ts).ringCnt = s.ringCnt := rfl
@[simp] theorem push_deadline : (s.push ts).deadline = s.deadline := rfl
@[simp] theorem push_pkt : (s.push ts).pkt = s.pkt := rfl
@[simp] theorem push_outcome : (s.push ts).outcome = s.outcome := rfl
@[simp] theorem push_failCause : (s.push ts).failCause = s.failCause := rfl
@[simp] theorem push_rxState : (s.push ts).rxState = s.rxState := rfl
@[simp] theorem push_pktIdx : (s.push ts).pktIdx = s.pktIdx := rfl
@[simp] theorem push_tolRem : (s.push ts).tolRem = s.tolRem := rfl
@[simp] theorem push_phase : (s.push ts).phase = s.phase := rfl
@[simp] theorem push_pktSize : (s.push ts).pktSize = s.pktSize := rfl
@[simp] theorem push_expSeq : (s.push ts).expSeq = s.expSeq := rfl
@[simp] theorem push_rcvd : (s.push ts).rcvd = s.rcvd := rfl
@[simp] theorem push_total : (s.push ts).total = s.total := rfl
@[simp] theorem push_destRef : (s.push ts).destRef = s.destRef := rfl
@[simp] theorem push_result : (s.push ts).result = s.result := rfl
@[simp] theorem push_hwfifo : (s.push ts).hwfifo = s.hwfifo := rfl
@[simp] theorem push_counter : (s.push ts).counter = s.counter := rfl
@[simp] theorem push_txlog : (s.push ts).txlog = s.txlog := rfl
@[simp] theorem push_dest : (s.push ts).dest = s.dest := rfl
@[simp] theorem push_line : (s.push ts).line = s.line := rfl
@[simp] theorem push_txReady : (s.push ts).txReady = s.txReady := rfl
@[simp] theorem push_par : (s.push ts).par = s.par := rfl
@[simp] theorem push_script : (s.push ts).script = s.script := rfl
@[simp] theorem push_pending : (s.push ts).pending = ts ++ s.pending := rfl
@[simp] theorem push_ret : (s.push ts).ret = s.ret := rfl
@[simp] theorem push_handed : (s.push ts).handed = s.handed := rfl
@[simp] theorem push_free : (s.push ts).free = s.free := rfl

end

/-! ## tx -/

section
variable (b : Byte) (s : State)

@[simp] theorem tx_crc : (tx b s).crc = s.crc := rfl
@[simp] theorem tx_ring : (tx b s).ring = s.ring := rfl
@[simp] theorem tx_ringWr : (tx b s).ringWr = s.ringWr := rfl
@[simp] theorem tx_ringRd : (tx b s).ringRd = s.ringRd := rfl
@[simp] theorem tx_ringCnt : (tx b s).ringCnt = s.ringCnt := rfl
@[simp] theorem tx_deadline : (tx b s).deadline = s.deadline := rfl
@[simp] theorem tx_pkt : (tx b s).pkt = s.pkt := rfl
@[simp] theorem tx_outcome : (tx b s).outcome = s.outcome := rfl
@[simp] theorem tx_failCause : (tx b s).failCause = s.failCause := rfl
@[simp] theorem tx_rxState : (tx b s).rxState = s.rxState := rfl
@[simp] theorem tx_pktIdx : (tx b s).pktIdx = s.pktIdx := rfl
@[simp] theorem tx_tolRem : (tx b s).tolRem = s.tolRem := rfl
@[simp] theorem tx_phase : (tx b s).phase = s.phase := rfl
@[simp] theorem tx_pktSize : (tx b s).pktSize = s.pktSize := rfl
@[simp] theorem tx_expSeq : (tx b s).expSeq = s.expSeq := rfl
@[simp] theorem tx_rcvd : (tx b s).rcvd = s.rcvd := rfl
@[simp] theorem tx_total : (tx b s).total = s.total := rfl
@[simp] theorem tx_destRef : (tx b s).destRef = s.destRef := rfl
@[simp] theorem tx_result : (tx b s).result = s.result := rfl
@[simp] theorem tx_hwfifo : (tx b s).hwfifo = s.hwfifo := rfl
@[simp] theorem tx_counter : (tx b s).counter = s.counter := rfl
@[simp] theorem tx_txlog : (tx b s).txlog = s.txlog ++ [b] := rfl
@[simp] theorem tx_dest : (tx b s).dest = s.dest := rfl
@[simp] theorem tx_line : (tx b s).line = s.line := rfl
@[simp] theorem tx_txReady : (tx b s).txReady = s.txReady := rfl
@[simp] theorem tx_par : (tx b s).par = s.par := rfl
@[simp] theorem tx_script : (tx b s).script = s.script := rfl
@[simp] theorem tx_pending : (tx b s).pending = s.pending := rfl
@[simp] theorem tx_ret : (tx b s).ret = s.ret := rfl
@[simp] theorem tx_handed : (tx b s).handed = s.handed := rfl
@[simp] theorem tx_free : (tx b s).free = s.free := rfl

end

/-! ## startRead -/

section
variable (t : Nat) (s : State)

@[simp] theorem startRead_crc : (startRead t s).crc = s.crc := rfl
@[simp] theorem startRead_ring : (startRead t s).ring = s.ring := rfl
@[simp] theorem startRead_ringWr : (startRead t s).ringWr = s.ringWr := rfl
@[simp] theorem startRead_ringRd : (startRead t s).ringRd = s.ringRd := rfl
@[simp] theorem startRead_ringCnt : (startRead t s).ringCnt = s.ringCnt := rfl
@[simp] theorem startRead_deadline : (startRead t s).deadline = (s.counter + t) % 2 ^ s.par.cntW := rfl
@[simp] theorem startRead_pkt : (startRead t s).pkt = s.pkt := rfl
@[simp] theorem startRead_outcome : (startRead t s).outcome = s.outcome := rfl
@[simp] theorem startRead_failCause : (startRead t s).failCause = s.failCause := rfl
@[simp] theorem startRead_rxState : (startRead t s).rxState = s.rxState := rfl
@[simp] theorem startRead_pktIdx : (startRead t s).pktIdx = s.pktIdx := rfl
@[simp] theorem startRead_tolRem : (startRead t s).tolRem = s.tolRem := rfl
@[simp] theorem startRead_phase : (startRead t s).phase = s.phase := rfl
@[simp] theorem startRead_pktSize : (startRead t s).pktSize = s.pktSize := rfl
@[simp] theorem startRead_expSeq : (startRead t s).expSeq = s.expSeq := rfl
@[simp] theorem startRead_rcvd : (startRead t s).rcvd = s.rcvd := rfl
@[simp] theorem startRead_total : (startRead t s).total = s.total := rfl
@[simp] theorem startRead_destRef : (startRead t s).destRef = s.destRef := rfl
@[simp] theorem startRead_result : (startRead t s).result = s.result := rfl
@[simp] theorem startRead_hwfifo : (startRead t s).hwfifo = s.hwfifo := rfl
@[simp] theorem startRead_counter : (startRead t s).counter = s.counter := rfl
@[simp] theorem startRead_txlog : (startRead t s).txlog = s.txlog := rfl
@[simp] theorem startRead_dest : (startRead t s).dest = s.dest := rfl
@[simp] theorem startRead_line : (startRead t s).line = s.line := rfl
@[simp] theorem startRead_txReady : (startRead t s).txReady = s.txReady := rfl
@[simp] theorem startRead_par : (startRead t s).par = s.par := rfl
@[simp] theorem startRead_script : (startRead t s).script = s.script := rfl
@[simp] theorem startRead_pending : (startRead t s).pending = s.pending := rfl
@[simp] theorem startRead_ret : (startRead t s).ret = s.ret := rfl
@[simp] theorem startRead_handed : (startRead t s).handed = s.handed := rfl
@[simp] theorem startRead_free : (startRead t s).free = s.free := rfl

end

/-! ## beginRead -/

section
variable (s : State)

@[simp] theorem beginRead_crc : (beginRead s).crc = s.crc := rfl
@[simp] theorem beginRead_ring : (beginRead s).ring = s.ring := rfl
@[simp] theorem beginRead_ringWr : (beginRead s).ringWr = s.ringWr := rfl
@[simp] theorem beginRead_ringRd : (beginRead s).ringRd = s.ringRd := rfl
@[simp] theorem beginRead_ringCnt : (beginRead s).ringCnt = s.ringCnt := rfl
@[simp] theorem beginRead_deadline : (beginRead s).deadline = (s.counter + s.par.readTimeoutTicks) % 2 ^ s.par.cntW := rfl
@[simp] theorem beginRead_pkt : (beginRead s).pkt = s.pkt := rfl
@[simp] theorem beginRead_outcome : (beginRead s).outcome = s.outcome := rfl
@[simp] theorem beginRead_failCause : (beginRead s).failCause = s.failCause := rfl
@[simp] theorem beginRead_rxState : (beginRead s).rxState = s.rxState := rfl
@[simp] theorem beginRead_pktIdx : (beginRead s).pktIdx = s.pktIdx := rfl
@[simp] theorem beginRead_tolRem : (beginRead s).tolRem = s.tolRem := rfl
@[simp] theorem beginRead_phase : (beginRead s).phase = s.phase := rfl
@[simp] theorem beginRead_pktSize : (beginRead s).pktSize = s.pktSize := rfl
@[simp] theorem beginRead_expSeq : (beginRead s).expSeq = s.expSeq := rfl
@[simp] theorem beginRead_rcvd : (beginRead s).rcvd = s.rcvd := rfl
@[simp] theorem beginRead_total : (beginRead s).total = s.total := rfl
@[simp] theorem beginRead_destRef : (beginRead s).destRef = s.destRef := rfl
@[simp] theorem beginRead_result : (beginRead s).result = s.result := rfl
@[simp] theorem beginRead_hwfifo : (beginRead s).hwfifo = s.hwfifo := rfl
@[simp] theorem beginRead_counter : (beginRead s).counter = s.counter := rfl
@[simp] theorem beginRead_txlog : (beginRead s).txlog = s.txlog := rfl
@[simp] theorem beginRead_dest : (beginRead s).dest = s.dest := rfl
@[simp] theorem beginRead_line : (beginRead s).line = s.line := rfl
@[simp] theorem beginRead_txReady : (beginRead s).txReady = s.txReady := rfl
@[simp] theorem beginRead_par : (beginRead s).par = s.par := rfl
@[simp] theorem beginRead_script : (beginRead s).script = s.script := rfl
@[simp] theorem beginRead_pending : (beginRead s).pending = s.pending := rfl
@[simp] theorem beginRead_ret : (beginRead s).ret = s.ret := rfl
@[simp] theorem beginRead_handed : (beginRead s).handed = s.handed := rfl
@[simp] theorem beginRead_free : (beginRead s).free = s.free := rfl

end

/-! ## finishReceive -/

section
variable (o : RecvOutcome) (s : State)

@[simp] theorem finishReceive_crc : (finishReceive o s).crc = s.crc := rfl
@[simp] theorem finishReceive_ring : (finishReceive o s).ring = s.ring := rfl
@[simp] theorem finishReceive_ringWr : (finishReceive o s).ringWr = s.ringWr := rfl
@[simp] theorem finishReceive_ringRd : (finishReceive o s).ringRd = s.ringRd := rfl
@[simp] theorem finishReceive_ringCnt : (finishReceive o s).ringCnt = s.ringCnt := rfl
@[simp] theorem finishReceive_deadline : (finishReceive o s).deadline = s.deadline := rfl
@[simp] theorem finishReceive_pkt : (finishReceive o s).pkt = s.pkt := rfl
@[simp] theorem finishReceive_outcome : (finishReceive o s).outcome = o := rfl
@[simp] theorem finishReceive_failCause : (finishReceive o s).failCause = s.failCause := rfl
@[simp] theorem finishReceive_rxState : (finishReceive o s).rxState = .idle := rfl
@[simp] theorem finishReceive_pktIdx : (finishReceive o s).pktIdx = s.pktIdx := rfl
@[simp] theorem finishReceive_tolRem : (finishReceive o s).tolRem = s.tolRem := rfl
@[simp] theorem finishReceive_phase : (finishReceive o s).phase = s.phase := rfl
@[simp] theorem finishReceive_pktSize : (finishReceive o s).pktSize = s.pktSize := rfl
@[simp] theorem finishReceive_expSeq : (finishReceive o s).expSeq = s.expSeq := rfl
@[simp] theorem finishReceive_rcvd : (finishReceive o s).rcvd = s.rcvd := rfl
@[simp] theorem finishReceive_total : (finishReceive o s).total = s.total := rfl
@[simp] theorem finishReceive_destRef : (finishReceive o s).destRef = s.destRef := rfl
@[simp] theorem finishReceive_result : (finishReceive o s).result = s.result := rfl
@[simp] theorem finishReceive_hwfifo : (finishReceive o s).hwfifo = s.hwfifo := rfl
@[simp] theorem finishReceive_counter : (finishReceive o s).counter = s.counter := rfl
@[simp] theorem finishReceive_txlog : (finishReceive o s).txlog = s.txlog := rfl
@[simp] theorem finishReceive_dest : (finishReceive o s).dest = s.dest := rfl
@[simp] theorem finishReceive_line : (finishReceive o s).line = s.line := rfl
@[simp] theorem finishReceive_txReady : (finishReceive o s).txReady = s.txReady := rfl
@[simp] theorem finishReceive_par : (finishReceive o s).par = s.par := rfl
@[simp] theorem finishReceive_script : (finishReceive o s).script = s.script := rfl
@[simp] theorem finishReceive_pending : (finishReceive o s).pending = s.pending := rfl
@[simp] theorem finishReceive_ret : (finishReceive o s).ret = s.ret := rfl
@[simp] theorem finishReceive_handed : (finishReceive o s).handed = s.handed := rfl
@[simp] theorem finishReceive_free : (finishReceive o s).free = s.free := rfl

end

/-! ## discardInput -/

section
variable (s : State)

@[simp] theorem discardInput_crc : (discardInput s).crc = s.crc := rfl
@[simp] theorem discardInput_ring : (discardInput s).ring = s.ring := rfl
@[simp] theorem discardInput_ringWr : (discardInput s).ringWr = s.ringWr := rfl
@[simp] theorem discardInput_ringRd : (discardInput s).ringRd = s.ringWr := rfl
@[simp] theorem discardInput_ringCnt : (discardInput s).ringCnt = 0 := rfl
@[simp] theorem discardInput_deadline : (discardInput s).deadline = s.deadline := rfl
@[simp] theorem discardInput_pkt : (discardInput s).pkt = s.pkt := rfl
@[simp] theorem discardInput_outcome : (discardInput s).outcome = s.outcome := rfl
@[simp] theorem discardInput_failCause : (discardInput s).failCause = s.failCause := rfl
@[simp] theorem discardInput_rxState : (discardInput s).rxState = s.rxState := rfl
@[simp] theorem discardInput_pktIdx : (discardInput s).pktIdx = s.pktIdx := rfl
@[simp] theorem discardInput_tolRem : (discardInput s).tolRem = s.tolRem := rfl
@[simp] theorem discardInput_phase : (discardInput s).phase = s.phase := rfl
@[simp] theorem discardInput_pktSize : (discardInput s).pktSize = s.pktSize := rfl
@[simp] theorem discardInput_expSeq : (discardInput s).expSeq = s.expSeq := rfl
@[simp] theorem discardInput_rcvd : (discardInput s).rcvd = s.rcvd := rfl
@[simp] theorem discardInput_total : (discardInput s).total = s.total := rfl
@[simp] theorem discardInput_destRef : (discardInput s).destRef = s.destRef := rfl
@[simp] theorem discardInput_result : (discardInput s).result = s.result := rfl
@[simp] theorem discardInput_hwfifo : (discardInput s).hwfifo = [] := rfl
@[simp] theorem discardInput_counter : (discardInput s).counter = s.counter := rfl
@[simp] theorem discardInput_txlog : (discardInput s).txlog = s.txlog := rfl
@[simp] theorem discardInput_dest : (discardInput s).dest = s.dest := rfl
@[simp] theorem discardInput_line : (discardInput s).line = s.line := rfl
@[simp] theorem discardInput_txReady : (discardInput s).txReady = s.txReady := rfl
@[simp] theorem discardInput_par : (discardInput s).par = s.par := rfl
@[simp] theorem discardInput_script : (discardInput s).script = s.script := rfl
@[simp] theorem discardInput_pending : (discardInput s).pending = s.pending := rfl
@[simp] theorem discardInput_ret : (discardInput s).ret = s.ret := rfl
@[simp] theorem discardInput_handed : (discardInput s).handed = s.handed := rfl
@[simp] theorem discardInput_free : (discardInput s).free = s.free := rfl

end

/-! ## beginCopy -/

section
variable (s : State)

@[simp] theorem beginCopy_crc : (beginCopy s).crc = s.crc := rfl
@[simp] theorem beginCopy_ring : (beginCopy s).ring = s.ring := rfl
@[simp] theorem beginCopy_ringWr : (beginCopy s).ringWr = s.ringWr := rfl
@[simp] theorem beginCopy_ringRd : (beginCopy s).ringRd = s.ringRd := rfl
@[simp] theorem beginCopy_ringCnt : (beginCopy s).ringCnt = s.ringCnt := rfl
@[simp] theorem beginCopy_deadline : (beginCopy s).deadline = s.deadline := rfl
@[simp] theorem beginCopy_pkt : (beginCopy s).pkt = s.pkt := rfl
@[simp] theorem beginCopy_outcome : (beginCopy s).outcome = s.outcome := rfl
@[simp] theorem beginCopy_failCause : (beginCopy s).failCause = s.failCause := rfl
@[simp] theorem beginCopy_rxState : (beginCopy s).rxState = s.rxState := rfl
@[simp] theorem beginCopy_pktIdx : (beginCopy s).pktIdx = s.pktIdx := rfl
@[simp] theorem beginCopy_tolRem : (beginCopy s).tolRem = s.tolRem := rfl
@[simp] theorem beginCopy_phase : (beginCopy s).phase = s.phase := rfl
@[simp] theorem beginCopy_pktSize : (beginCopy s).pktSize = s.pktSize := rfl
@[simp] theorem beginCopy_expSeq : (beginCopy s).expSeq = s.expSeq + 1 := rfl
@[simp] theorem beginCopy_rcvd : (beginCopy s).rcvd = s.rcvd := rfl
@[simp] theorem beginCopy_total : (beginCopy s).total = s.total := rfl
@[simp] theorem beginCopy_destRef : (beginCopy s).destRef = s.destRef := rfl
@[simp] theorem beginCopy_result : (beginCopy s).result = s.result := rfl
@[simp] theorem beginCopy_hwfifo : (beginCopy s).hwfifo = s.hwfifo := rfl
@[simp] theorem beginCopy_counter : (beginCopy s).counter = s.counter := rfl
@[simp] theorem beginCopy_txlog : (beginCopy s).txlog = s.txlog := rfl
@[simp] theorem beginCopy_dest : (beginCopy s).dest = s.dest := rfl
@[simp] theorem beginCopy_line : (beginCopy s).line = s.line := rfl
@[simp] theorem beginCopy_txReady : (beginCopy s).txReady = s.txReady := rfl
@[simp] theorem beginCopy_par : (beginCopy s).par = s.par := rfl
@[simp] theorem beginCopy_script : (beginCopy s).script = s.script := rfl
@[simp] theorem beginCopy_pending : (beginCopy s).pending = .copy 0 :: s.pending := rfl
@[simp] theorem beginCopy_ret : (beginCopy s).ret = s.ret := rfl
@[simp] theorem beginCopy_handed : (beginCopy s).handed = s.handed := rfl
@[simp] theorem beginCopy_free : (beginCopy s).free = s.free := rfl

end

/-! ## failSession -/

section
variable (c : FailCause) (s : State)

@[simp] theorem failSession_crc : (failSession c s).crc = s.crc := rfl
@[simp] theorem failSession_ring : (failSession c s).ring = s.ring := rfl
@[simp] theorem failSession_ringWr : (failSession c s).ringWr = s.ringWr := rfl
@[simp] theorem failSession_ringRd : (failSession c s).ringRd = s.ringRd := rfl
@[simp] theorem failSession_ringCnt : (failSession c s).ringCnt = s.ringCnt := rfl
@[simp] theorem failSession_deadline : (failSession c s).deadline = s.deadline := rfl
@[simp] theorem failSession_pkt : (failSession c s).pkt = s.pkt := rfl
@[simp] theorem failSession_outcome : (failSession c s).outcome = s.outcome := rfl
@[simp] theorem failSession_failCause : (failSession c s).failCause = c := rfl
@[simp] theorem failSession_rxState : (failSession c s).rxState = s.rxState := rfl
@[simp] theorem failSession_pktIdx : (failSession c s).pktIdx = s.pktIdx := rfl
@[simp] theorem failSession_tolRem : (failSession c s).tolRem = s.tolRem := rfl
@[simp] theorem failSession_phase : (failSession c s).phase = .idle := rfl
@[simp] theorem failSession_pktSize : (failSession c s).pktSize = s.pktSize := rfl
@[simp] theorem failSession_expSeq : (failSession c s).expSeq = s.expSeq := rfl
@[simp] theorem failSession_rcvd : (failSession c s).rcvd = s.rcvd := rfl
@[simp] theorem failSession_total : (failSession c s).total = s.total := rfl
@[simp] theorem failSession_destRef : (failSession c s).destRef = s.destRef := rfl
@[simp] theorem failSession_result : (failSession c s).result = some .failure := rfl
@[simp] theorem failSession_hwfifo : (failSession c s).hwfifo = s.hwfifo := rfl
@[simp] theorem failSession_counter : (failSession c s).counter = s.counter := rfl
@[simp] theorem failSession_txlog : (failSession c s).txlog = s.txlog := rfl
@[simp] theorem failSession_dest : (failSession c s).dest = s.dest := rfl
@[simp] theorem failSession_line : (failSession c s).line = s.line := rfl
@[simp] theorem failSession_txReady : (failSession c s).txReady = s.txReady := rfl
@[simp] theorem failSession_par : (failSession c s).par = s.par := rfl
@[simp] theorem failSession_script : (failSession c s).script = s.script := rfl
@[simp] theorem failSession_pending : (failSession c s).pending = [.call .done] := rfl
@[simp] theorem failSession_ret : (failSession c s).ret = s.ret := rfl
@[simp] theorem failSession_handed : (failSession c s).handed = s.handed := rfl
@[simp] theorem failSession_free : (failSession c s).free = s.free := rfl

end

/-! ## succeedSession -/

section
variable (n : Nat) (s : State)

@[simp] theorem succeedSession_crc : (succeedSession n s).crc = s.crc := rfl
@[simp] theorem succeedSession_ring : (succeedSession n s).ring = s.ring := rfl
@[simp] theorem succeedSession_ringWr : (succeedSession n s).ringWr = s.ringWr := rfl
@[simp] theorem succeedSession_ringRd : (succeedSession n s).ringRd = s.ringRd := rfl
@[simp] theorem succeedSession_ringCnt : (succeedSession n s).ringCnt = s.ringCnt := rfl
@[simp] theorem succeedSession_deadline : (succeedSession n s).deadline = s.deadline := rfl
@[simp] theorem succeedSession_pkt : (succeedSession n s).pkt = s.pkt := rfl
@[simp] theorem succeedSession_outcome : (succeedSession n s).outcome = s.outcome := rfl
@[simp] theorem succeedSession_failCause : (succeedSession n s).failCause = s.failCause := rfl
@[simp] theorem succeedSession_rxState : (succeedSession n s).rxState = s.rxState := rfl
@[simp] theorem succeedSession_pktIdx : (succeedSession n s).pktIdx = s.pktIdx := rfl
@[simp] theorem succeedSession_tolRem : (succeedSession n s).tolRem = s.tolRem := rfl
@[simp] theorem succeedSession_phase : (succeedSession n s).phase = .idle := rfl
@[simp] theorem succeedSession_pktSize : (succeedSession n s).pktSize = s.pktSize := rfl
@[simp] theorem succeedSession_expSeq : (succeedSession n s).expSeq = s.expSeq := rfl
@[simp] theorem succeedSession_rcvd : (succeedSession n s).rcvd = s.rcvd := rfl
@[simp] theorem succeedSession_total : (succeedSession n s).total = s.total := rfl
@[simp] theorem succeedSession_destRef : (succeedSession n s).destRef = s.destRef := rfl
@[simp] theorem succeedSession_result : (succeedSession n s).result = some (.success n) := rfl
@[simp] theorem succeedSession_hwfifo : (succeedSession n s).hwfifo = s.hwfifo := rfl
@[simp] theorem succeedSession_counter : (succeedSession n s).counter = s.counter := rfl
@[simp] theorem succeedSession_txlog : (succeedSession n s).txlog = s.txlog := rfl
@[simp] theorem succeedSession_dest : (succeedSession n s).dest = s.dest := rfl
@[simp] theorem succeedSession_line : (succeedSession n s).line = s.line := rfl
@[simp] theorem succeedSession_txReady : (succeedSession n s).txReady = s.txReady := rfl
@[simp] theorem succeedSession_par : (succeedSession n s).par = s.par := rfl
@[simp] theorem succeedSession_script : (succeedSession n s).script = s.script := rfl
@[simp] theorem succeedSession_pending : (succeedSession n s).pending = [.call .done] := rfl
@[simp] theorem succeedSession_ret : (succeedSession n s).ret = s.ret := rfl
@[simp] theorem succeedSession_handed : (succeedSession n s).handed = s.handed := rfl
@[simp] theorem succeedSession_free : (succeedSession n s).free = s.free := rfl

end

/-! ## handResult -/

section
variable (r : SessionResult) (s : State)

@[simp] theorem handResult_crc : (handResult r s).crc = s.crc := rfl
@[simp] theorem handResult_ring : (handResult r s).ring = s.ring := rfl
@[simp] theorem handResult_ringWr : (handResult r s).ringWr = s.ringWr := rfl
@[simp] theorem handResult_ringRd : (handResult r s).ringRd = s.ringRd := rfl
@[simp] theorem handResult_ringCnt : (handResult r s).ringCnt = s.ringCnt := rfl
@[simp] theorem handResult_deadline : (handResult r s).deadline = s.deadline := rfl
@[simp] theorem handResult_pkt : (handResult r s).pkt = s.pkt := rfl
@[simp] theorem handResult_outcome : (handResult r s).outcome = s.outcome := rfl
@[simp] theorem handResult_failCause : (handResult r s).failCause = s.failCause := rfl
@[simp] theorem handResult_rxState : (handResult r s).rxState = s.rxState := rfl
@[simp] theorem handResult_pktIdx : (handResult r s).pktIdx = s.pktIdx := rfl
@[simp] theorem handResult_tolRem : (handResult r s).tolRem = s.tolRem := rfl
@[simp] theorem handResult_phase : (handResult r s).phase = s.phase := rfl
@[simp] theorem handResult_pktSize : (handResult r s).pktSize = s.pktSize := rfl
@[simp] theorem handResult_expSeq : (handResult r s).expSeq = s.expSeq := rfl
@[simp] theorem handResult_rcvd : (handResult r s).rcvd = s.rcvd := rfl
@[simp] theorem handResult_total : (handResult r s).total = s.total := rfl
@[simp] theorem handResult_destRef : (handResult r s).destRef = s.destRef := rfl
@[simp] theorem handResult_result : (handResult r s).result = s.result := rfl
@[simp] theorem handResult_hwfifo : (handResult r s).hwfifo = s.hwfifo := rfl
@[simp] theorem handResult_counter : (handResult r s).counter = s.counter := rfl
@[simp] theorem handResult_txlog : (handResult r s).txlog = s.txlog := rfl
@[simp] theorem handResult_dest : (handResult r s).dest = s.dest := rfl
@[simp] theorem handResult_line : (handResult r s).line = s.line := rfl
@[simp] theorem handResult_txReady : (handResult r s).txReady = s.txReady := rfl
@[simp] theorem handResult_par : (handResult r s).par = s.par := rfl
@[simp] theorem handResult_script : (handResult r s).script = s.script := rfl
@[simp] theorem handResult_pending : (handResult r s).pending = s.pending := rfl
@[simp] theorem handResult_ret : (handResult r s).ret = s.ret := rfl
@[simp] theorem handResult_handed : (handResult r s).handed = s.handed ++ [r] := rfl
@[simp] theorem handResult_free : (handResult r s).free = s.free := rfl

end

/-! ## platformInit -/

section
variable (s : State)

@[simp] theorem platformInit_crc : (platformInit s).crc = s.crc := rfl
@[simp] theorem platformInit_ring : (platformInit s).ring = s.ring := rfl
@[simp] theorem platformInit_ringWr : (platformInit s).ringWr = 0 := rfl
@[simp] theorem platformInit_ringRd : (platformInit s).ringRd = 0 := rfl
@[simp] theorem platformInit_ringCnt : (platformInit s).ringCnt = 0 := rfl
@[simp] theorem platformInit_deadline : (platformInit s).deadline = s.deadline := rfl
@[simp] theorem platformInit_pkt : (platformInit s).pkt = s.pkt := rfl
@[simp] theorem platformInit_outcome : (platformInit s).outcome = s.outcome := rfl
@[simp] theorem platformInit_failCause : (platformInit s).failCause = s.failCause := rfl
@[simp] theorem platformInit_rxState : (platformInit s).rxState = s.rxState := rfl
@[simp] theorem platformInit_pktIdx : (platformInit s).pktIdx = s.pktIdx := rfl
@[simp] theorem platformInit_tolRem : (platformInit s).tolRem = s.tolRem := rfl
@[simp] theorem platformInit_phase : (platformInit s).phase = s.phase := rfl
@[simp] theorem platformInit_pktSize : (platformInit s).pktSize = s.pktSize := rfl
@[simp] theorem platformInit_expSeq : (platformInit s).expSeq = s.expSeq := rfl
@[simp] theorem platformInit_rcvd : (platformInit s).rcvd = s.rcvd := rfl
@[simp] theorem platformInit_total : (platformInit s).total = s.total := rfl
@[simp] theorem platformInit_destRef : (platformInit s).destRef = s.destRef := rfl
@[simp] theorem platformInit_result : (platformInit s).result = s.result := rfl
@[simp] theorem platformInit_hwfifo : (platformInit s).hwfifo = [] := rfl
@[simp] theorem platformInit_counter : (platformInit s).counter = s.counter := rfl
@[simp] theorem platformInit_txlog : (platformInit s).txlog = s.txlog := rfl
@[simp] theorem platformInit_dest : (platformInit s).dest = s.dest := rfl
@[simp] theorem platformInit_line : (platformInit s).line = s.line := rfl
@[simp] theorem platformInit_txReady : (platformInit s).txReady = s.txReady := rfl
@[simp] theorem platformInit_par : (platformInit s).par = s.par := rfl
@[simp] theorem platformInit_script : (platformInit s).script = s.script := rfl
@[simp] theorem platformInit_pending : (platformInit s).pending = s.pending := rfl
@[simp] theorem platformInit_ret : (platformInit s).ret = s.ret := rfl
@[simp] theorem platformInit_handed : (platformInit s).handed = s.handed := rfl
@[simp] theorem platformInit_free : (platformInit s).free = s.free := rfl

end

/-! ## powerUp -/

section
variable (s : State)

@[simp] theorem powerUp_crc : (powerUp s).crc = 0 := rfl
@[simp] theorem powerUp_ring : (powerUp s).ring = [] := rfl
@[simp] theorem powerUp_ringWr : (powerUp s).ringWr = 0 := rfl
@[simp] theorem powerUp_ringRd : (powerUp s).ringRd = 0 := rfl
@[simp] theorem powerUp_ringCnt : (powerUp s).ringCnt = 0 := rfl
@[simp] theorem powerUp_deadline : (powerUp s).deadline = 0 := rfl
@[simp] theorem powerUp_pkt : (powerUp s).pkt = [] := rfl
@[simp] theorem powerUp_outcome : (powerUp s).outcome = .timeout := rfl
@[simp] theorem powerUp_failCause : (powerUp s).failCause = .none := rfl
@[simp] theorem powerUp_rxState : (powerUp s).rxState = .idle := rfl
@[simp] theorem powerUp_pktIdx : (powerUp s).pktIdx = 0 := rfl
@[simp] theorem powerUp_tolRem : (powerUp s).tolRem = 0 := rfl
@[simp] theorem powerUp_phase : (powerUp s).phase = .idle := rfl
@[simp] theorem powerUp_pktSize : (powerUp s).pktSize = .short := rfl
@[simp] theorem powerUp_expSeq : (powerUp s).expSeq = 0 := rfl
@[simp] theorem powerUp_rcvd : (powerUp s).rcvd = 0 := rfl
@[simp] theorem powerUp_total : (powerUp s).total = none := rfl
@[simp] theorem powerUp_destRef : (powerUp s).destRef = none := rfl
@[simp] theorem powerUp_result : (powerUp s).result = none := rfl
@[simp] theorem powerUp_hwfifo : (powerUp s).hwfifo = [] := rfl
@[simp] theorem powerUp_counter : (powerUp s).counter = 0 := rfl
@[simp] theorem powerUp_txlog : (powerUp s).txlog = [] := rfl
@[simp] theorem powerUp_dest : (powerUp s).dest = s.dest := rfl
@[simp] theorem powerUp_line : (powerUp s).line = s.line := rfl
@[simp] theorem powerUp_txReady : (powerUp s).txReady = true := rfl
@[simp] theorem powerUp_par : (powerUp s).par = s.par := rfl
@[simp] theorem powerUp_script : (powerUp s).script = s.script := rfl
@[simp] theorem powerUp_pending : (powerUp s).pending = [.call .hwInit] := rfl
@[simp] theorem powerUp_ret : (powerUp s).ret = .nothing := rfl
@[simp] theorem powerUp_handed : (powerUp s).handed = [] := rfl
@[simp] theorem powerUp_free : (powerUp s).free = s.free := rfl

end

/-! ## serviceRx -/

section
variable (s : State)

@[simp] theorem serviceRx_crc : (serviceRx s).crc = s.crc := rfl
@[simp] theorem serviceRx_ring : (serviceRx s).ring = (s.ringIn.putAll s.hwfifo).cells := rfl
@[simp] theorem serviceRx_ringWr : (serviceRx s).ringWr = (s.ringIn.putAll s.hwfifo).wr := rfl
@[simp] theorem serviceRx_ringRd : (serviceRx s).ringRd = s.ringRd := rfl
@[simp] theorem serviceRx_ringCnt : (serviceRx s).ringCnt = (s.ringIn.putAll s.hwfifo).cnt := rfl
@[simp] theorem serviceRx_deadline : (serviceRx s).deadline = s.deadline := rfl
@[simp] theorem serviceRx_pkt : (serviceRx s).pkt = s.pkt := rfl
@[simp] theorem serviceRx_outcome : (serviceRx s).outcome = s.outcome := rfl
@[simp] theorem serviceRx_failCause : (serviceRx s).failCause = s.failCause := rfl
@[simp] theorem serviceRx_rxState : (serviceRx s).rxState = s.rxState := rfl
@[simp] theorem serviceRx_pktIdx : (serviceRx s).pktIdx = s.pktIdx := rfl
@[simp] theorem serviceRx_tolRem : (serviceRx s).tolRem = s.tolRem := rfl
@[simp] theorem serviceRx_phase : (serviceRx s).phase = s.phase := rfl
@[simp] theorem serviceRx_pktSize : (serviceRx s).pktSize = s.pktSize := rfl
@[simp] theorem serviceRx_expSeq : (serviceRx s).expSeq = s.expSeq := rfl
@[simp] theorem serviceRx_rcvd : (serviceRx s).rcvd = s.rcvd := rfl
@[simp] theorem serviceRx_total : (serviceRx s).total = s.total := rfl
@[simp] theorem serviceRx_destRef : (serviceRx s).destRef = s.destRef := rfl
@[simp] theorem serviceRx_result : (serviceRx s).result = s.result := rfl
@[simp] theorem serviceRx_hwfifo : (serviceRx s).hwfifo = [] := rfl
@[simp] theorem serviceRx_counter : (serviceRx s).counter = s.counter := rfl
@[simp] theorem serviceRx_txlog : (serviceRx s).txlog = s.txlog := rfl
@[simp] theorem serviceRx_dest : (serviceRx s).dest = s.dest := rfl
@[simp] theorem serviceRx_line : (serviceRx s).line = s.line := rfl
@[simp] theorem serviceRx_txReady : (serviceRx s).txReady = s.txReady := rfl
@[simp] theorem serviceRx_par : (serviceRx s).par = s.par := rfl
@[simp] theorem serviceRx_script : (serviceRx s).script = s.script := rfl
@[simp] theorem serviceRx_pending : (serviceRx s).pending = s.pending := rfl
@[simp] theorem serviceRx_ret : (serviceRx s).ret = s.ret := rfl
@[simp] theorem serviceRx_handed : (serviceRx s).handed = s.handed := rfl
@[simp] theorem serviceRx_free : (serviceRx s).free = s.free := rfl

end

/-! ## ringPush -/

section
variable (b : Byte) (s : State)

@[simp] theorem ringPush_crc : (ringPush b s).crc = s.crc := rfl
@[simp] theorem ringPush_ring : (ringPush b s).ring = (s.ringIn.put b).cells := rfl
@[simp] theorem ringPush_ringWr : (ringPush b s).ringWr = (s.ringIn.put b).wr := rfl
@[simp] theorem ringPush_ringRd : (ringPush b s).ringRd = s.ringRd := rfl
@[simp] theorem ringPush_ringCnt : (ringPush b s).ringCnt = (s.ringIn.put b).cnt := rfl
@[simp] theorem ringPush_deadline : (ringPush b s).deadline = s.deadline := rfl
@[simp] theorem ringPush_pkt : (ringPush b s).pkt = s.pkt := rfl
@[simp] theorem ringPush_outcome : (ringPush b s).outcome = s.outcome := rfl
@[simp] theorem ringPush_failCause : (ringPush b s).failCause = s.failCause := rfl
@[simp] theorem ringPush_rxState : (ringPush b s).rxState = s.rxState := rfl
@[simp] theorem ringPush_pktIdx : (ringPush b s).pktIdx = s.pktIdx := rfl
@[simp] theorem ringPush_tolRem : (ringPush b s).tolRem = s.tolRem := rfl
@[simp] theorem ringPush_phase : (ringPush b s).phase = s.phase := rfl
@[simp] theorem ringPush_pktSize : (ringPush b s).pktSize = s.pktSize := rfl
@[simp] theorem ringPush_expSeq : (ringPush b s).expSeq = s.expSeq := rfl
@[simp] theorem ringPush_rcvd : (ringPush b s).rcvd = s.rcvd := rfl
@[simp] theorem ringPush_total : (ringPush b s).total = s.total := rfl
@[simp] theorem ringPush_destRef : (ringPush b s).destRef = s.destRef := rfl
@[simp] theorem ringPush_result : (ringPush b s).result = s.result := rfl
@[simp] theorem ringPush_hwfifo : (ringPush b s).hwfifo = s.hwfifo := rfl
@[simp] theorem ringPush_counter : (ringPush b s).counter = s.counter := rfl
@[simp] theorem ringPush_txlog : (ringPush b s).txlog = s.txlog := rfl
@[simp] theorem ringPush_dest : (ringPush b s).dest = s.dest := rfl
@[simp] theorem ringPush_line : (ringPush b s).line = s.line := rfl
@[simp] theorem ringPush_txReady : (ringPush b s).txReady = s.txReady := rfl
@[simp] theorem ringPush_par : (ringPush b s).par = s.par := rfl
@[simp] theorem ringPush_script : (ringPush b s).script = s.script := rfl
@[simp] theorem ringPush_pending : (ringPush b s).pending = s.pending := rfl
@[simp] theorem ringPush_ret : (ringPush b s).ret = s.ret := rfl
@[simp] theorem ringPush_handed : (ringPush b s).handed = s.handed := rfl
@[simp] theorem ringPush_free : (ringPush b s).free = s.free := rfl

end

/-! ## withRingIn -/

section
variable (r : RingIn) (s : State)

@[simp] theorem withRingIn_crc : (s.withRingIn r).crc = s.crc := rfl
@[simp] theorem withRingIn_ring : (s.withRingIn r).ring = r.cells := rfl
@[simp] theorem withRingIn_ringWr : (s.withRingIn r).ringWr = r.wr := rfl
@[simp] theorem withRingIn_ringRd : (s.withRingIn r).ringRd = s.ringRd := rfl
@[simp] theorem withRingIn_ringCnt : (s.withRingIn r).ringCnt = r.cnt := rfl
@[simp] theorem withRingIn_deadline : (s.withRingIn r).deadline = s.deadline := rfl
@[simp] theorem withRingIn_pkt : (s.withRingIn r).pkt = s.pkt := rfl
@[simp] theorem withRingIn_outcome : (s.withRingIn r).outcome = s.outcome := rfl
@[simp] theorem withRingIn_failCause : (s.withRingIn r).failCause = s.failCause := rfl
@[simp] theorem withRingIn_rxState : (s.withRingIn r).rxState = s.rxState := rfl
@[simp] theorem withRingIn_pktIdx : (s.withRingIn r).pktIdx = s.pktIdx := rfl
@[simp] theorem withRingIn_tolRem : (s.withRingIn r).tolRem = s.tolRem := rfl
@[simp] theorem withRingIn_phase : (s.withRingIn r).phase = s.phase := rfl
@[simp] theorem withRingIn_pktSize : (s.withRingIn r).pktSize = s.pktSize := rfl
@[simp] theorem withRingIn_expSeq : (s.withRingIn r).expSeq = s.expSeq := rfl
@[simp] theorem withRingIn_rcvd : (s.withRingIn r).rcvd = s.rcvd := rfl
@[simp] theorem withRingIn_total : (s.withRingIn r).total = s.total := rfl
@[simp] theorem withRingIn_destRef : (s.withRingIn r).destRef = s.destRef := rfl
@[simp] theorem withRingIn_result : (s.withRingIn r).result = s.result := rfl
@[simp] theorem withRingIn_hwfifo : (s.withRingIn r).hwfifo = s.hwfifo := rfl
@[simp] theorem withRingIn_counter : (s.withRingIn r).counter = s.counter := rfl
@[simp] theorem withRingIn_txlog : (s.withRingIn r).txlog = s.txlog := rfl
@[simp] theorem withRingIn_dest : (s.withRingIn r).dest = s.dest := rfl
@[simp] theorem withRingIn_line : (s.withRingIn r).line = s.line := rfl
@[simp] theorem withRingIn_txReady : (s.withRingIn r).txReady = s.txReady := rfl
@[simp] theorem withRingIn_par : (s.withRingIn r).par = s.par := rfl
@[simp] theorem withRingIn_script : (s.withRingIn r).script = s.script := rfl
@[simp] theorem withRingIn_pending : (s.withRingIn r).pending = s.pending := rfl
@[simp] theorem withRingIn_ret : (s.withRingIn r).ret = s.ret := rfl
@[simp] theorem withRingIn_handed : (s.withRingIn r).handed = s.handed := rfl
@[simp] theorem withRingIn_free : (s.withRingIn r).free = s.free := rfl

end

end Sys2Proof.Machine
end

