-- ==== Sys2Proof/Laws/Ring.lean ====
section
/-! SUPPORT. The ring buffer as a FIFO: what push, pop, service and one turn of a read do to the stored bytes (R111 to R116). -/

namespace Sys2Proof.Machine

/-! ## The stored bytes -/

theorem ringFrom_length (s : State) (k n : Nat) : (ringFrom s k n).length = n := by
  induction n generalizing k with
  | zero => rfl
  | succ n ih => simp [ringFrom, ih]

@[simp] theorem ringBytes_length (s : State) : (ringBytes s).length = s.ringCnt.toNat := ringFrom_length ..

/-- The bytes depend on the cells they stand in alone. -/
theorem ringFrom_congr {s t : State} (n k j : Nat)
    (h : ∀ i, i < n → t.ring.read (ringAddr t (j + i)) = s.ring.read (ringAddr s (k + i))) :
    ringFrom t j n = ringFrom s k n := by
  induction n generalizing k j with
  | zero => rfl
  | succ n ih =>
    simp only [ringFrom]
    rw [ih (k + 1) (j + 1) fun i hi => by
      have := h (i + 1) (by omega)
      rwa [show j + 1 + i = j + (i + 1) by omega, show k + 1 + i = k + (i + 1) by omega]]
    have := h 0 (by omega)
    simp only [Nat.add_zero] at this
    rw [this]

theorem ringFrom_snoc (s : State) (n k : Nat) :
    ringFrom s k (n + 1) = ringFrom s k n ++ [(s.ring.read (ringAddr s (k + n))).getD 0] := by
  induction n generalizing k with
  | zero => simp [ringFrom]
  | succ n ih =>
    rw [ringFrom, ih, show k + 1 + n = k + (n + 1) by omega]
    simp [ringFrom]

/-- States that agree on the ring store the same bytes. -/
theorem ringBytes_congr {s t : State} (h1 : t.ring = s.ring) (h2 : t.ringRd = s.ringRd) (h3 : t.ringCnt = s.ringCnt) :
    ringBytes t = ringBytes s := by
  unfold ringBytes
  rw [h3]
  exact ringFrom_congr _ _ _ fun i _ => by simp [ringAddr, h1, h2]

theorem RingOk.congr {s t : State} (h : RingOk s) (h1 : t.ring = s.ring) (h2 : t.ringRd = s.ringRd)
    (h3 : t.ringCnt = s.ringCnt) (h4 : t.ringWr = s.ringWr) : RingOk t where
  count := by rw [h3]; exact h.count
  cursors := by rw [h4, h2, h3]; exact h.cursors
  stored := fun k hk => by
    rw [h3] at hk
    simpa [ringAddr, h1, h2] using h.stored k hk

/-! ## Push -/

/-- The write cursor stands one place after the newest byte. -/
theorem RingOk.wr_toNat {s : State} (h : RingOk s) : s.ringWr.toNat = ringAddr s s.ringCnt.toNat := by
  rw [h.cursors]
  simp [ringAddr, Config.ringCap]

theorem ringAddr_inj {s : State} {i j : Nat} (hi : i < Config.ringCap) (hj : j < Config.ringCap)
    (h : ringAddr s i = ringAddr s j) : i = j := by
  unfold ringAddr at h
  unfold Config.ringCap at *
  have := s.ringRd.isLt
  omega

theorem ringPush_full {s : State} (h : s.ringCnt.toNat = Config.ringCap) (b : Byte) : ringPush b s = s := by
  simp [ringPush, RingIn.put, State.ringIn, State.withRingIn, h]

theorem ringPush_room {s : State} (h : s.ringCnt.toNat ≠ Config.ringCap) (b : Byte) :
    ringPush b s =
      { s with ring := s.ring.write s.ringWr.toNat b, ringWr := s.ringWr + 1, ringCnt := s.ringCnt + 1 } := by
  simp [ringPush, RingIn.put, State.ringIn, State.withRingIn, h]

theorem cnt_succ {c : BitVec 13} (h : c.toNat < Config.ringCap) : (c + 1).toNat = c.toNat + 1 := by
  have : c.toNat < 4096 := h
  rw [BitVec.toNat_add]
  simp
  omega

theorem ringPush_ok {s : State} (h : RingOk s) (b : Byte) : RingOk (ringPush b s) := by
  by_cases hf : s.ringCnt.toNat = Config.ringCap
  · rw [ringPush_full hf]; exact h
  · have hlt : s.ringCnt.toNat < Config.ringCap := Nat.lt_of_le_of_ne h.count hf
    have hc := cnt_succ hlt
    rw [ringPush_room hf]
    refine ⟨by show (s.ringCnt + 1).toNat ≤ _; omega, ?_, fun k hk => ?_⟩
    · show s.ringWr + 1 = s.ringRd + (s.ringCnt + 1).setWidth 12
      rw [h.cursors]
      apply BitVec.eq_of_toNat_eq
      have := s.ringRd.isLt
      simp [BitVec.toNat_add]
      omega
    · show (Memory.read _ (ringAddr s k)).isSome = true
      rw [read_write]
      split
      · rfl
      · next hne =>
        have hk' : k < (s.ringCnt + 1).toNat := hk
        have : k ≠ s.ringCnt.toNat := fun hkk => hne (by rw [h.wr_toNat, hkk])
        exact h.stored k (by omega)

/-- A push appends the byte, or drops it when the ring is full (R111). -/
theorem ringBytes_push {s : State} (h : RingOk s) (b : Byte) :
    ringBytes (ringPush b s) =
      if s.ringCnt.toNat = Config.ringCap then ringBytes s else ringBytes s ++ [b] := by
  by_cases hf : s.ringCnt.toNat = Config.ringCap
  · rw [ringPush_full hf, if_pos hf]
  · have hlt : s.ringCnt.toNat < Config.ringCap := Nat.lt_of_le_of_ne h.count hf
    rw [if_neg hf, ringPush_room hf]
    unfold ringBytes
    show ringFrom _ 0 (s.ringCnt + 1).toNat = _
    rw [cnt_succ hlt, ringFrom_snoc]
    congr 1
    · refine ringFrom_congr _ _ _ fun i hi => ?_
      show Memory.read _ (ringAddr s _) = _
      refine read_write_other _ _ fun he => ?_
      rw [h.wr_toNat] at he
      have := ringAddr_inj (by omega) hlt he
      omega
    · show [(Memory.read _ (ringAddr s _)).getD 0] = _
      rw [Nat.zero_add, h.wr_toNat]
      simp

theorem putAll_eq (bs : List Byte) (s : State) :
    s.withRingIn (s.ringIn.putAll bs) = bs.foldl (fun s b => ringPush b s) s := by
  induction bs generalizing s with
  | nil => rfl
  | cons b bs ih => rw [List.foldl_cons, ← ih]; rfl

theorem pushAll_spec (bs : List Byte) {s : State} (h : RingOk s) :
    RingOk (bs.foldl (fun s b => ringPush b s) s) ∧
    ringBytes (bs.foldl (fun s b => ringPush b s) s) = (ringBytes s ++ bs).take Config.ringCap := by
  induction bs generalizing s with
  | nil =>
    refine ⟨h, ?_⟩
    rw [List.foldl_nil, List.append_nil, List.take_of_length_le]
    rw [ringBytes_length]; exact h.count
  | cons b bs ih =>
    obtain ⟨h1, h2⟩ := ih (ringPush_ok h b)
    refine ⟨h1, ?_⟩
    rw [List.foldl_cons, h2, ringBytes_push h]
    split
    · next hf =>
      have hl : (ringBytes s).length = Config.ringCap := by rw [ringBytes_length, hf]
      rw [List.take_append_of_le_length (by omega), List.take_append_of_le_length (by omega)]
    · simp

/-- `service_rx`: the stored bytes followed by the FIFO's, as many as fit; the FIFO is empty (R113, R122). -/
theorem serviceRx_ok {s : State} (h : RingOk s) : RingOk (serviceRx s) := by
  have := (pushAll_spec s.hwfifo h).1
  rw [← putAll_eq] at this
  exact this.congr rfl rfl rfl rfl

theorem ringBytes_service {s : State} (h : RingOk s) :
    ringBytes (serviceRx s) = (ringBytes s ++ s.hwfifo).take Config.ringCap := by
  have := (pushAll_spec s.hwfifo h).2
  rw [← putAll_eq] at this
  rw [← this]
  exact ringBytes_congr rfl rfl rfl

/-! ## Pop -/

theorem ringPop_empty {s : State} (h : s.ringCnt = 0) : ringPop s = .ok (none, s) := by simp [ringPop, h]

theorem ringBytes_nil {s : State} : ringBytes s = [] ↔ s.ringCnt = 0 := by
  rw [← List.length_eq_zero_iff, ringBytes_length]
  exact ⟨fun h => BitVec.eq_of_toNat_eq (by simpa using h), fun h => by simp [h]⟩

/-- With a byte stored, a pop returns the oldest and leaves the rest (R112). -/
theorem ringPop_spec {s : State} (h : RingOk s) {b : Byte} {bs : List Byte} (hb : ringBytes s = b :: bs) :
    ringPop s = .ok (some b, { s with ringRd := s.ringRd + 1, ringCnt := s.ringCnt - 1 }) ∧
    RingOk { s with ringRd := s.ringRd + 1, ringCnt := s.ringCnt - 1 } ∧
    ringBytes { s with ringRd := s.ringRd + 1, ringCnt := s.ringCnt - 1 } = bs := by
  have hlen : s.ringCnt.toNat = bs.length + 1 := by rw [← ringBytes_length, hb]; rfl
  have hne : s.ringCnt ≠ 0 := fun h0 => by simp [h0] at hlen
  have hcap := h.count
  have hdec : (s.ringCnt - 1).toNat = bs.length := by
    have := s.ringCnt.isLt
    rw [BitVec.toNat_sub]
    simp
    omega
  have hadd : ∀ i, ringAddr { s with ringRd := s.ringRd + 1, ringCnt := s.ringCnt - 1 } i = ringAddr s (i + 1) := by
    intro i
    simp [ringAddr, Config.ringCap]
    omega
  have hfrom : ringFrom s 0 (bs.length + 1) = b :: bs := by rw [← hlen]; exact hb
  have h0 := h.stored 0 (by omega)
  have hrd : ringAddr s 0 = s.ringRd.toNat := by
    have := s.ringRd.isLt
    simp only [ringAddr, Config.ringCap]
    omega
  obtain ⟨v, hv⟩ := Option.isSome_iff_exists.1 h0
  simp only [ringFrom, hv, Option.getD_some, List.cons.injEq] at hfrom
  obtain ⟨rfl, hrest⟩ := hfrom
  refine ⟨?_, ⟨?_, ?_, ?_⟩, ?_⟩
  · rw [hrd] at hv
    rw [ringPop, if_neg hne, hv]
  · show (s.ringCnt - 1).toNat ≤ _
    omega
  · show s.ringWr = s.ringRd + 1 + (s.ringCnt - 1).setWidth 12
    rw [h.cursors]
    apply BitVec.eq_of_toNat_eq
    simp only [BitVec.toNat_add, BitVec.toNat_setWidth, hdec, hlen]
    simp
    omega
  · intro k hk
    have hk' : k < (s.ringCnt - 1).toNat := hk
    rw [hadd]
    exact h.stored (k + 1) (by omega)
  · unfold ringBytes
    show ringFrom _ 0 (s.ringCnt - 1).toNat = bs
    rw [hdec]
    refine Eq.trans (ringFrom_congr _ 1 0 fun i _ => ?_) hrest
    rw [hadd, show 0 + i + 1 = 1 + i by omega]

/-! ## One turn of a read -/

/-- A turn of a read in a good ring: the oldest pending byte, else none or waiting by the deadline; never stuck
(R116, R118, R217). -/
theorem pollRead_spec {s : State} (h : RingOk s) :
    (∃ b bs, (ringBytes s ++ s.hwfifo).take Config.ringCap = b :: bs ∧ ∃ s',
      s' = { serviceRx s with ringRd := (serviceRx s).ringRd + 1, ringCnt := (serviceRx s).ringCnt - 1 } ∧
      pollRead s = .byte b s' ∧ RingOk s' ∧ ringBytes s' = bs) ∨
    (ringBytes s = [] ∧ s.hwfifo = [] ∧ RingOk (serviceRx s) ∧
      pollRead s = if expired s.par.cntW s.counter s.deadline then .none (serviceRx s) else .waiting (serviceRx s)) := by
  have hs := serviceRx_ok h
  have hb := ringBytes_service h
  cases hl : (ringBytes s ++ s.hwfifo).take Config.ringCap with
  | cons b bs =>
    obtain ⟨h1, h2, h3⟩ := ringPop_spec hs (hb.trans hl)
    exact .inl ⟨b, bs, rfl, _, rfl, by simp [pollRead, h1], h2, h3⟩
  | nil =>
    have h0 : ringBytes (serviceRx s) = [] := hb.trans hl
    rw [ringBytes_nil] at h0
    have hnil : ringBytes s ++ s.hwfifo = [] := by
      rcases List.take_eq_nil_iff.1 hl with h | h
      · cases h
      · exact h
    obtain ⟨h1, h2⟩ := List.append_eq_nil_iff.1 hnil
    refine .inr ⟨h1, h2, hs, ?_⟩
    unfold pollRead
    rw [ringPop_empty h0]
    rfl

/-- A turn of a read never leaves the fields outside the ring and the FIFO changed. -/
theorem pollRead_cases (s : State) :
    (∃ b, pollRead s =
      .byte b { serviceRx s with ringRd := (serviceRx s).ringRd + 1, ringCnt := (serviceRx s).ringCnt - 1 }) ∨
    pollRead s = .none (serviceRx s) ∨ pollRead s = .waiting (serviceRx s) ∨ pollRead s = .stuck .ringNoValue := by
  by_cases h0 : (serviceRx s).ringCnt = 0
  · have h : pollRead s =
        if expired (serviceRx s).par.cntW (serviceRx s).counter (serviceRx s).deadline then .none (serviceRx s)
        else .waiting (serviceRx s) := by
      unfold pollRead
      rw [ringPop_empty h0]
    rw [h]
    split
    · exact .inr (.inl rfl)
    · exact .inr (.inr (.inl rfl))
  · cases hr : (serviceRx s).ring.read (serviceRx s).ringRd.toNat with
    | none => exact .inr (.inr (.inr (by unfold pollRead ringPop; rw [if_neg h0, hr])))
    | some b => exact .inl ⟨b, by unfold pollRead ringPop; rw [if_neg h0, hr]⟩

end Sys2Proof.Machine
end

