-- ==== Sys2Proof/Laws/Ops.lean ====
section
/-! SUPPORT. One spec lemma per shared operation: what it answers where its condition holds, and what a next state of it
says. -/

namespace Sys2Proof.Machine

/-! ## CRC16 -/

/-- R103 (d): the loop continues over the rest of the message. -/
theorem crcFrom_append (c : Check) (a b : List Byte) : crcFrom c (a ++ b) = crcFrom (crcFrom c a) b := by
  induction a generalizing c with
  | nil => rfl
  | cons x a ih => exact ih (crcStep c x)

theorem crc16_append (a b : List Byte) : crc16 (a ++ b) = crcFrom (crc16 a) b := crcFrom_append _ a b

/-! ## The CORE's turn -/

/-- A step in the CORE's turn is the CORE's move. -/
theorem coreTurn_step {s s0 : State} (h : coreTurn s s0) : step s = coreMove s0 := by
  rcases h with ⟨h, rfl⟩ | ⟨es, h, rfl⟩ <;> simp [step, stepOnce, h, playEvent]

/-- The turn takes off a script entry and changes nothing else. -/
theorem coreTurn_fields {s s0 : State} (h : coreTurn s s0) : s0 = { s with script := s0.script } := by
  rcases h with ⟨_, rfl⟩ | ⟨_, _, rfl⟩ <;> rfl

/-- The CORE takes its next task off and runs it. -/
theorem coreMove_cons {s : State} {t : Task} {ts : List Task} (h : s.pending = t :: ts) :
    coreMove s = runTask t { s with pending := ts } := by unfold coreMove; rw [h]

/-- A leading byte other than the four is ILLEGAL (R85). -/
theorem decodeLeading_illegal {b : Byte} (h : b ∉ [0x01#8, 0x02#8, 0x04#8, 0x18#8]) :
    decodeLeading b = .illegal b := by
  simp only [List.mem_cons, List.not_mem_nil, or_false, not_or] at h
  exact (if_neg h.1).trans ((if_neg h.2.1).trans ((if_neg h.2.2.1).trans (if_neg h.2.2.2)))

/-! ## The receive path -/

/-- With the hardware FIFO empty a service pass does nothing (R113). -/
theorem serviceRx_idle {s : State} (h : s.hwfifo = []) : serviceRx s = s := by
  cases s; simp only at h; subst h; rfl

theorem putAll_full {r : RingIn} (h : r.cnt.toNat = Config.ringCap) (bs : List Byte) : r.putAll bs = r := by
  induction bs with
  | nil => rfl
  | cons b bs ih => rw [RingIn.putAll, RingIn.put, if_pos h, ih]

/-- A service pass writes no RING byte but those from RING_WR on (R111). -/
theorem putAll_frame (bs : List Byte) (r : RingIn) (a : Nat)
    (h : ∀ k, k < bs.length → a ≠ (r.wr.toNat + k) % 4096) : (r.putAll bs).cells.read a = r.cells.read a := by
  induction bs generalizing r with
  | nil => rfl
  | cons b bs ih =>
    by_cases hf : r.cnt.toNat = Config.ringCap
    · rw [putAll_full hf]
    · have h0 := h 0 (by simp)
      have := r.wr.isLt
      rw [RingIn.putAll, RingIn.put, if_neg hf, ih]
      · exact read_write_other _ _ (by simp at h0; omega)
      · intro k hk
        have := h (k + 1) (by simpa using hk)
        simp [BitVec.toNat_add]
        omega

/-- Putting bytes keeps the canonical form and the ring's addresses. -/
theorem putAll_wf (bs : List Byte) (r : RingIn) (h : r.cells.wf) (hr : ∀ c ∈ r.cells, c.1 < Config.ringCap) :
    (r.putAll bs).cells.wf ∧ ∀ c ∈ (r.putAll bs).cells, c.1 < Config.ringCap := by
  induction bs generalizing r with
  | nil => exact ⟨h, hr⟩
  | cons b bs ih =>
    rw [RingIn.putAll, RingIn.put]
    split
    · exact ih r h hr
    · exact ih _ (write_wf h _ _) (write_range hr r.wr.isLt b)

/-- A turn of the `receive` in progress with a byte pending takes the oldest (R116, R217). -/
theorem rx_poll {s0 : State} {ts : List Task} {b : Byte} {bs : List Byte} (h : RingOk s0)
    (hb : (ringBytes s0 ++ s0.hwfifo).take 4096 = b :: bs) :
    ∃ r w c, ∃ t : State,
      t = { s0 with pending := ts, hwfifo := [], ring := r, ringWr := w, ringRd := s0.ringRd + 1, ringCnt := c } ∧
      pollRead { s0 with pending := ts } = .byte b t ∧ RingOk t ∧ ringBytes t = bs := by
  have h' : RingOk { s0 with pending := ts } := h.congr rfl rfl rfl rfl
  have hbb : ringBytes { s0 with pending := ts } = ringBytes s0 := ringBytes_congr rfl rfl rfl
  rcases pollRead_spec h' with ⟨c, cs, hc, s', hs', hp', hok, hr⟩ | ⟨h1, h2, h3, h4⟩
  · rw [hbb] at hc
    have : c :: cs = b :: bs := hc.symm.trans hb
    injection this with h1 h2; subst h1 h2
    exact ⟨_, _, _, _, hs', hp', hok, hr⟩
  · rw [hbb] at h1; simp at h2; simp [h1, h2] at hb

/-- A turn of the `receive` in progress with no byte pending: the deadline decides (R116). -/
theorem rx_nopoll {s0 : State} {ts : List Task} (h : RingOk s0) (hb : ringBytes s0 = []) (hf : s0.hwfifo = []) :
    pollRead { s0 with pending := ts } =
      if expired s0.par.cntW s0.counter s0.deadline then .none { s0 with pending := ts } else .waiting { s0 with pending := ts } := by
  have h' : RingOk { s0 with pending := ts } := h.congr rfl rfl rfl rfl
  have hbb : ringBytes { s0 with pending := ts } = ringBytes s0 := ringBytes_congr rfl rfl rfl
  rcases pollRead_spec h' with ⟨c, cs, hc, s', hs', hp', hok, hr⟩ | ⟨h1, h2, h3, h4⟩
  · rw [hbb] at hc; simp [hb, hf] at hc
  · rw [h4, serviceRx_idle (by exact hf)]

/-! ### One turn of a read, by how it ends -/

theorem readTurn_byte {s t : State} {b : Byte} (h : pollRead s = .byte b t) :
    readTurn s = .next { t with ret := .byte (some b) } := by unfold readTurn; rw [h]

theorem readTurn_none {s t : State} (h : pollRead s = .none t) : readTurn s = .next { t with ret := .byte none } := by
  unfold readTurn; rw [h]

theorem readTurn_waiting {s t : State} (h : pollRead s = .waiting t) : readTurn s = .next (t.push [.readPoll]) := by
  unfold readTurn; rw [h]

theorem rxTag_byte {s t : State} {b : Byte} (hs : s.rxState = .tag) (h : pollRead s = .byte b t) :
    rxStep s = exec (decodeLeading b) t := by unfold rxStep; rw [hs]; unfold rxTag; rw [h]

theorem rxTag_none {s t : State} (hs : s.rxState = .tag) (h : pollRead s = .none t) :
    rxStep s = .next (finishReceive .timeout t) := by unfold rxStep; rw [hs]; unfold rxTag; rw [h]

theorem rxTag_waiting {s t : State} (hs : s.rxState = .tag) (h : pollRead s = .waiting t) :
    rxStep s = .next (t.push [.rx]) := by unfold rxStep; rw [hs]; unfold rxTag; rw [h]

theorem rxBody_byte {s t : State} {b : Byte} (hs : s.rxState = .body)
    (hi : s.pktIdx.toNat ≤ s.pktSize.toNat + Config.bodyExtra) (h : pollRead s = .byte b t) :
    rxStep s = .next (storeBody b t) := by unfold rxStep; rw [hs]; unfold rxBody; rw [h]; exact if_pos hi

theorem rxBody_none {s t : State} (hs : s.rxState = .body)
    (hi : s.pktIdx.toNat ≤ s.pktSize.toNat + Config.bodyExtra) (h : pollRead s = .none t) :
    rxStep s = .next (finishReceive .timeout t) := by unfold rxStep; rw [hs]; unfold rxBody; rw [h]; exact if_pos hi

theorem rxBody_waiting {s t : State} (hs : s.rxState = .body)
    (hi : s.pktIdx.toNat ≤ s.pktSize.toNat + Config.bodyExtra) (h : pollRead s = .waiting t) :
    rxStep s = .next (t.push [.rx]) := by unfold rxStep; rw [hs]; unfold rxBody; rw [h]; exact if_pos hi

/-- A complete body is classified and the call ends (R140 to R143). -/
theorem rxCheck_eq {s : State} {body : List Byte} (hs : s.rxState = .check) (h : bodyBytes s = some body) :
    rxStep s = .next (finishReceive (classifyBody body)
      (if pairValid (body.getD 0 0) (body.getD 1 0) then { s with crc := crc16 body } else s)) := by
  have hc : rxStep s = rxCheck s := by unfold rxStep; rw [hs]
  rw [hc]; unfold rxCheck; rw [h]

/-- In the leading-byte position a TAG row has its effect (R131). -/
theorem inTagPosition_eq {s : State} (h : s.rxState = .tag) (k : State → State) :
    inTagPosition k s = .next (k s) := if_pos h

theorem inTagPosition_next {s t : State} {k : State → State} (h : inTagPosition k s = .next t) :
    s.rxState = .tag ∧ t = k s := by
  unfold inTagPosition at h
  split at h
  · next hs => exact ⟨hs, by injection h.symm⟩
  · cases h

/-! ## The transmit path -/

/-- Ready: the byte is sent and the operation goes on (R119). -/
theorem writeThen_ready {s : State} (h : s.txReady = true) (b : Byte) (i : Instr) (k : State → Result) :
    writeThen b i k s = k { serviceRx s with txlog := s.txlog ++ [b] } := by
  unfold writeThen
  exact if_pos h

/-- Not ready: the receive path is serviced and the operation waits (R119, R120). -/
theorem writeThen_wait {s : State} (h : s.txReady = false) (b : Byte) (i : Instr) (k : State → Result) :
    writeThen b i k s = .next { serviceRx s with pending := .call i :: s.pending } := by
  unfold writeThen
  exact if_neg (by rw [serviceRx_txReady, h]; decide)

/-! ## Conditions of a branch -/

theorem onBranch_eq {p : Phase} {o : RecvOutcome} {s : State} (hp : s.phase = p) (ho : s.outcome = o) (k : Result) :
    onBranch p o s k = k := if_pos ⟨hp, ho⟩

theorem onBranch_next {p : Phase} {o : RecvOutcome} {s t : State} {k : Result} (h : onBranch p o s k = .next t) :
    s.phase = p ∧ s.outcome = o ∧ k = .next t := by
  unfold onBranch at h
  split at h
  · next hc => exact ⟨hc.1, hc.2, h⟩
  · cases h

theorem onOk_eq {p : Phase} {s : State} {q : Byte} (hp : s.phase = p) (ho : s.outcome = .ok) (hq : seqOf s = some q)
    (k : Byte → Result) : onOk p s k = k q := by
  rw [onOk, onBranch_eq hp ho, hq]

theorem onOk_next {p : Phase} {s t : State} {k : Byte → Result} (h : onOk p s k = .next t) :
    s.phase = p ∧ s.outcome = .ok ∧ ∃ q, seqOf s = some q ∧ k q = .next t := by
  obtain ⟨h1, h2, h3⟩ := onBranch_next h
  split at h3
  · next q hq => exact ⟨h1, h2, q, hq, h3⟩
  · cases h3

theorem onHeader_eq {s : State} {p : List Byte} (hp : s.phase = .a) (ho : s.outcome = .ok)
    (hq : seqOf s = some 0) (hpl : payloadOf s = some p) (k : List Byte → Result) : onHeader s k = k p := by
  rw [onHeader, onOk_eq hp ho hq]
  simp only [hpl]; rfl

theorem onHeader_next {s t : State} {k : List Byte → Result} (h : onHeader s k = .next t) :
    s.phase = .a ∧ s.outcome = .ok ∧ seqOf s = some 0 ∧ ∃ p, payloadOf s = some p ∧ k p = .next t := by
  obtain ⟨h1, h2, q, hq, h3⟩ := onOk_next h
  split at h3
  · next h0 =>
    subst h0
    split at h3
    · next p hp => exact ⟨h1, h2, hq, p, hp, h3⟩
    · cases h3
  · cases h3

theorem withTotal_eq {s : State} {n : Nat} (h : s.total = some n) (k : Nat → Result) : withTotal s k = k n := by
  rw [withTotal, h]

theorem withTotal_next {s t : State} {k : Nat → Result} (h : withTotal s k = .next t) :
    ∃ n, s.total = some n ∧ k n = .next t := by
  unfold withTotal at h
  split at h
  · next n hn => exact ⟨n, hn, h⟩
  · cases h

theorem onlyIf_eq {c : Bool} (h : c = true) (k : Result) : onlyIf c k = k := by simp [onlyIf, h]

theorem onlyIf_next {c : Bool} {k : Result} {t : State} (h : onlyIf c k = .next t) : c = true ∧ k = .next t := by
  unfold onlyIf at h
  split at h
  · next hc => exact ⟨hc, h⟩
  · cases h

/-! ## The packet -/

/-- The packet as the Session Controller reads it depends on the receiver's registers and PKT alone. -/
theorem pktAt_congr {s t : State} (h1 : t.outcome = s.outcome) (h2 : t.rxState = s.rxState) (h3 : t.pktSize = s.pktSize)
    (h4 : t.pkt = s.pkt) (i : Nat) : pktAt t i = pktAt s i := by
  unfold pktAt packetHeld
  rw [h1, h2, h3, h4]

theorem seqOf_congr {s t : State} (h1 : t.outcome = s.outcome) (h2 : t.rxState = s.rxState) (h3 : t.pktSize = s.pktSize)
    (h4 : t.pkt = s.pkt) : seqOf t = seqOf s := pktAt_congr h1 h2 h3 h4 1

theorem payloadOf_congr {s t : State} (h1 : t.outcome = s.outcome) (h2 : t.rxState = s.rxState)
    (h3 : t.pktSize = s.pktSize) (h4 : t.pkt = s.pkt) : payloadOf t = payloadOf s := by
  unfold payloadOf packetHeld
  rw [h1, h2, h3, h4]

/-- A packet held has a sequence number and a payload of its size. -/
theorem packet_reads {s : State} (h1 : packetHeld s = true) (h2 : packetStored s) :
    (∃ q, seqOf s = some q) ∧ ∃ p, payloadOf s = some p ∧ p.length = s.pktSize.toNat := by
  have hx : Config.bodyExtra = 4 := rfl
  constructor
  · obtain ⟨q, hq⟩ := Option.isSome_iff_exists.1 (h2 1 (by omega))
    exact ⟨q, by rw [seqOf, pktAt, if_pos ⟨h1, by omega⟩, hq]⟩
  · obtain ⟨p, hp, hl⟩ := readAll_isSome (m := s.pkt) s.pktSize.toNat 3 fun i hi =>
      h2 (3 + i) (by omega)
    exact ⟨p, by rw [payloadOf, if_pos h1, hp], hl⟩

/-! ## The payload copy -/

/-- One byte of the copy where everything it reads has a value and the place lies in DEST (R167). -/
theorem copyByte_eq {s : State} {i base : Nat} {b : Byte} (hb : pktAt s (3 + i) = some b) (hd : s.destRef = some base)
    (hfit : s.rcvd + i < s.par.destCap) :
    copyByte i s = .next (afterCopied i { s with dest := s.dest.write (base + (s.rcvd + i)) b }) := by
  simp only [copyByte, hb, hd, destWrite, if_pos hfit]

/-- What a byte of the copy has done (R167). -/
theorem copyByte_next {s t : State} {i : Nat} (h : copyByte i s = .next t) :
    ∃ b base, pktAt s (3 + i) = some b ∧ s.destRef = some base ∧ s.rcvd + i < s.par.destCap ∧
      t = afterCopied i { s with dest := s.dest.write (base + (s.rcvd + i)) b } := by
  unfold copyByte at h
  split at h
  · cases h
  · cases h
  · next b base hb hd =>
    unfold destWrite at h
    split at h
    · next hw =>
      split at hw
      · next hfit => injection hw with hw; injection h with h; exact ⟨b, base, hb, hd, hfit, by rw [← h, ← hw]⟩
      · cases hw
    · cases h

/-- After a byte that is not the last the next one is to be copied. -/
theorem afterCopied_more {s : State} {i : Nat} (h : i + 1 < s.pktSize.toNat) :
    afterCopied i s = { s with pending := .copy (i + 1) :: s.pending } := if_pos h

/-- After the last byte RCVD is advanced and the next data step begins. -/
theorem afterCopied_last {s : State} {i : Nat} (h : ¬ i + 1 < s.pktSize.toNat) :
    afterCopied i s = { s with rcvd := s.rcvd + s.pktSize.toNat, pending := .call .phaseBStep :: s.pending } := if_neg h

/-! ## The form of the memories -/

/-- After reset every memory has the canonical form and its address range. -/
theorem reset_memoryOk : MemoryOk State.reset where
  ringWf := .nil
  pktWf := .nil
  destWf := .nil
  ringRange := fun _ h => by cases h
  pktRange := fun _ h => by cases h

/-- A service pass keeps it. -/
theorem serviceRx_memoryOk {s : State} (h : MemoryOk s) : MemoryOk (serviceRx s) where
  ringWf := (putAll_wf _ s.ringIn h.ringWf h.ringRange).1
  pktWf := h.pktWf
  destWf := h.destWf
  ringRange := (putAll_wf _ s.ringIn h.ringWf h.ringRange).2
  pktRange := h.pktRange

/-- A body byte stored inside PKT keeps it. -/
theorem storeBody_memoryOk {s : State} (h : MemoryOk s) (hi : s.pktIdx.toNat < Config.pktBufLen) (b : Byte) :
    MemoryOk (storeBody b s) := by
  unfold storeBody
  dsimp only
  split <;> exact ⟨h.ringWf, write_wf h.pktWf _ _, h.destWf, h.ringRange, write_range h.pktRange hi b⟩

/-- A byte of the payload copy keeps it. -/
theorem copyByte_memoryOk {s t : State} {i : Nat} (h : MemoryOk s) (ht : copyByte i s = .next t) : MemoryOk t := by
  obtain ⟨b, base, _, _, _, rfl⟩ := copyByte_next ht
  unfold afterCopied
  split <;> exact ⟨h.ringWf, h.pktWf, write_wf h.destWf _ _, h.ringRange, h.pktRange⟩

end Sys2Proof.Machine
end

