-- ==== Sys2Proof/Laws/Invariant.lean ====
section
/-! SUPPORT. The parts of the invariant depend on few fields: they carry over to a state that agrees on those. -/

namespace Sys2Proof.Machine

theorem MemoryOk.congr {s t : State} (h : MemoryOk s) (h1 : t.ring = s.ring) (h2 : t.pkt = s.pkt)
    (h3 : t.dest = s.dest) : MemoryOk t :=
  ⟨h1 ▸ h.ringWf, h2 ▸ h.pktWf, h3 ▸ h.destWf, h1 ▸ h.ringRange, h2 ▸ h.pktRange⟩

theorem packetStored_congr {s t : State} (h1 : t.pktSize = s.pktSize) (h2 : t.pkt = s.pkt) (h : packetStored s) :
    packetStored t := by
  unfold packetStored
  rw [h1, h2]
  exact h

/-- The receiver's registers carry over, and a call that has ended asks nothing of them. -/
theorem ReceiverOk.congr {s t : State} (h : ReceiverOk s) (h1 : t.pktIdx = s.pktIdx) (h2 : t.pktSize = s.pktSize)
    (h3 : t.pkt = s.pkt) (h4 : t.rxState = s.rxState ∨ t.rxState = .idle) : ReceiverOk t where
  index := by rw [h1]; exact h.index
  body := fun hb => by
    rcases h4 with h4 | h4
    · rw [h1, h2, h3]; exact h.body (h4 ▸ hb)
    · rw [h4] at hb; cases hb
  check := fun hb => by
    rcases h4 with h4 | h4
    · have hc := h.check (h4 ▸ hb)
      exact ⟨by rw [h1, h2]; exact hc.1, packetStored_congr h2 h3 hc.2⟩
    · rw [h4] at hb; cases hb

theorem SessionOk.congr {s t : State} (h : SessionOk s) (h1 : t.phase = s.phase) (h2 : t.destRef = s.destRef)
    (h3 : t.rcvd = s.rcvd) (h4 : t.expSeq = s.expSeq) (h5 : t.total = s.total) (h6 : t.par = s.par) : SessionOk t where
  dest := by rw [h1, h2]; exact h.dest
  multiple := by rw [h1, h3]; exact h.multiple
  handshake := by rw [h1, h3, h4]; exact h.handshake
  data := by
    have hd := h.data
    unfold lengthsOk at *
    rw [h1, h3, h5, h6]
    exact hd
  termination := by rw [h1, h3, h5, h6]; exact h.termination

theorem WidthsOk.congr {s t : State} (h : WidthsOk s) (h1 : t.par = s.par) (h2 : t.counter = s.counter)
    (h3 : t.deadline = s.deadline) (h4 : t.rcvd = s.rcvd) (h5 : t.total = s.total) : WidthsOk t where
  params := h1 ▸ h.params
  counter := by rw [h1, h2]; exact h.counter
  deadline := by rw [h1, h3]; exact h.deadline
  rcvd := by rw [h1, h4]; exact h.rcvd
  total := by rw [h1, h5]; exact h.total

/-- A read that begins sets a deadline of its width. -/
theorem WidthsOk.startRead {s : State} (h : WidthsOk s) (timeout : Nat) : WidthsOk (startRead timeout s) :=
  { h with deadline := Nat.mod_lt _ (Nat.two_pow_pos _) }

/-- After reset, with the defaults of R7, the registers of parametric width hold values of their width. -/
theorem reset_widthsOk : WidthsOk State.reset where
  params := ⟨by decide, by
      have := Config.cntHz.isLt
      show (Config.cntHz.val + 1) / 2 < 2 ^ 31
      omega, Config.destCap.isLt⟩
  counter := Nat.two_pow_pos _
  deadline := Nat.two_pow_pos _
  rcvd := Nat.two_pow_pos _
  total := fun _ h => by cases h

/-- With no session there is nothing to ask of its registers. -/
theorem SessionOk.of_idle {t : State} (h : t.phase = .idle) : SessionOk t where
  dest := fun h' => absurd h h'
  multiple := fun h' => absurd h h'
  handshake := fun h' => by rw [h] at h'; cases h'
  data := fun h' => by rw [h] at h'; cases h'
  termination := fun h' => by rw [h] at h'; cases h'

/-- Two states agree on what the CORE's position is judged by. -/
structure SamePosition (s t : State) : Prop where
  phase : t.phase = s.phase
  outcome : t.outcome = s.outcome
  rxState : t.rxState = s.rxState
  pktSize : t.pktSize = s.pktSize
  pkt : t.pkt = s.pkt
  total : t.total = s.total
  rcvd : t.rcvd = s.rcvd
  expSeq : t.expSeq = s.expSeq
  par : t.par = s.par
  result : t.result = s.result
  destRef : t.destRef = s.destRef
  handed : t.handed = s.handed

variable {s t : State}

theorem selectBranch_congr (h : SamePosition s t) : selectBranch t = selectBranch s := by
  unfold selectBranch
  rw [h.phase, h.outcome, seqOf_congr h.outcome h.rxState h.pktSize h.pkt, h.total, h.expSeq, h.rcvd, h.pktSize]

theorem selectHeader_congr (h : SamePosition s t) : selectHeader t = selectHeader s := by
  unfold selectHeader
  rw [payloadOf_congr h.outcome h.rxState h.pktSize h.pkt, h.par]

theorem selected_congr (h : SamePosition s t) {i : Instr} (hs : selected s i) : selected t i := by
  unfold selected
  rw [selectBranch_congr h, selectHeader_congr h]
  exact hs

theorem returned_congr (h : SamePosition s t) (hs : returned s) : returned t :=
  ⟨h.phase ▸ hs.1, fun ho => packetStored_congr h.pktSize h.pkt (hs.2 (h.outcome ▸ ho))⟩

theorem lengthsOk_congr (h : SamePosition s t) (hs : lengthsOk s) : lengthsOk t := by
  unfold lengthsOk
  rw [h.total, h.rcvd, h.par]
  exact hs

/-- A position of the CORE carries over. -/
theorem Standing.congr (h : SamePosition s t) {ts : List Task} (hs : Standing s ts) : Standing t ts := by
  induction hs with
  | rest h1 => exact .rest (h.phase.trans h1)
  | platform h1 h2 h3 => exact .platform (h.phase.trans h1) (h.destRef.trans h2) (h.handed.trans h3)
  | handOver h1 h2 => exact .handOver (h.phase.trans h1) (by rw [h.result]; exact h2)
  | quiet i ts h1 h2 _ ih => exact .quiet i ts h1 (by rw [h.phase]; exact h2) ih
  | failing c h1 => exact .failing c (by rw [h.phase]; exact h1)
  | attempt h1 => exact .attempt (h.phase.trans h1)
  | handshake tol h1 => exact .handshake tol (h.phase.trans h1)
  | dataStep h1 => exact .dataStep (h.phase.trans h1)
  | termStep h1 => exact .termStep (h.phase.trans h1)
  | dispatch h1 => exact .dispatch (returned_congr h h1)
  | parse p n h1 h2 h3 => exact .parse p n (returned_congr h h1) ((selectBranch_congr h).trans h2) h3
  | header h1 h2 => exact .header (returned_congr h h1) ((selectBranch_congr h).trans h2)
  | branch i h1 h2 => exact .branch i (returned_congr h h1) (selected_congr h h2)
  | copy i h1 h2 h3 h4 h5 =>
    exact .copy i (returned_congr h h1) (h.phase.trans h2) (h.outcome.trans h3) (by rw [h.pktSize]; exact h4)
      (by rw [h.total, h.rcvd, h.pktSize]; exact h5)
  | enterB h1 h2 => exact .enterB (h.phase.trans h1) (lengthsOk_congr h h2)
  | enterC h1 h2 => exact .enterC (h.phase.trans h1) (by rw [h.total, h.rcvd]; exact h2)

end Sys2Proof.Machine
end

