-- ==== Sys2Proof/Laws/PerInstr.lean ====
section
/-! SUPPORT. Decode and encode agree, instruction by instruction (spec/30_encoding.md R76, R90): the words of a well-formed
instruction decode to it in the direction they stand in. A row without a bit pattern has no words (R93). -/

namespace Sys2Proof.Laws

/-- What holds of one instruction: decoding its words gives it back and leaves no byte. -/
def RoundTrip.Statement (i : Instr) : Prop :=
  ∀ cntW lenW, i.wf cntW lenW = true → ∀ d ws, encode i = some (d, ws) → decode d ws = .ok (i, [])

/-- A row without words. -/
theorem RoundTrip.of_none {i : Instr} (h : encode i = none) : RoundTrip.Statement i :=
  fun _ _ _ d ws hw => by rw [h] at hw; cases hw

/-- A row whose words are computed. -/
theorem RoundTrip.of_some {i : Instr} {d : Direction} {ws : List Byte} (h : encode i = some (d, ws))
    (hd : decode d ws = .ok (i, [])) : RoundTrip.Statement i := fun _ _ _ d' ws' hw => by
  rw [h] at hw
  injection hw with hw
  injection hw with h1 h2
  rw [← h1, ← h2, hd]

theorem RoundTrip.soh : RoundTrip.Statement .soh := of_some rfl rfl
theorem RoundTrip.stx : RoundTrip.Statement .stx := of_some rfl rfl
theorem RoundTrip.eot : RoundTrip.Statement .eot := of_some rfl rfl
theorem RoundTrip.can : RoundTrip.Statement .can := of_some rfl rfl
theorem RoundTrip.illegal (b : Byte) : RoundTrip.Statement (.illegal b) := fun _ _ hwf d ws hw => by
  have hl : legalTag b = false := by
    cases h : legalTag b with
    | false => rfl
    | true => simp [Instr.wf, Instr.check, h] at hwf
  have hn : b ∉ [0x01#8, 0x02#8, 0x04#8, 0x18#8] := fun hm => by
    simp only [List.mem_cons, List.not_mem_nil, or_false] at hm
    rcases hm with rfl | rfl | rfl | rfl <;> exact absurd hl (by decide)
  injection hw with hw
  injection hw with h1 h2
  rw [← h1, ← h2]
  show Except.ok (decodeLeading b, []) = _
  rw [Machine.decodeLeading_illegal hn]
theorem RoundTrip.ack : RoundTrip.Statement .ack := of_some rfl rfl
theorem RoundTrip.nak : RoundTrip.Statement .nak := of_some rfl rfl
theorem RoundTrip.crq : RoundTrip.Statement .crq := of_some rfl rfl
theorem RoundTrip.canTx : RoundTrip.Statement .canTx := of_some rfl rfl
theorem RoundTrip.bs : RoundTrip.Statement .bs := of_some rfl rfl
theorem RoundTrip.abortSeq : RoundTrip.Statement .abortSeq := of_some rfl rfl
theorem RoundTrip.crc16 (bytes : List Byte) : RoundTrip.Statement (.crc16 bytes) := of_none rfl
theorem RoundTrip.ringPush (b : Byte) : RoundTrip.Statement (.ringPush b) := of_none rfl
theorem RoundTrip.ringPop : RoundTrip.Statement .ringPop := of_none rfl
theorem RoundTrip.serviceRx : RoundTrip.Statement .serviceRx := of_none rfl
theorem RoundTrip.readByte (t : Nat) : RoundTrip.Statement (.readByte t) := of_none rfl
theorem RoundTrip.writeByte (b : Byte) : RoundTrip.Statement (.writeByte b) := of_none rfl
theorem RoundTrip.discardInput : RoundTrip.Statement .discardInput := of_none rfl
theorem RoundTrip.receive (tol : BitVec 2) : RoundTrip.Statement (.receive tol) := of_none rfl
theorem RoundTrip.parseLen (p : List Byte) (n : Nat) : RoundTrip.Statement (.parseLen p n) := of_none rfl
theorem RoundTrip.phaseAAttempt : RoundTrip.Statement .phaseAAttempt := of_none rfl
theorem RoundTrip.phaseBStep : RoundTrip.Statement .phaseBStep := of_none rfl
theorem RoundTrip.phaseCStep : RoundTrip.Statement .phaseCStep := of_none rfl
theorem RoundTrip.abortProcedure : RoundTrip.Statement .abortProcedure := of_none rfl
theorem RoundTrip.report (c : FailCause) : RoundTrip.Statement (.report c) := of_none rfl
theorem RoundTrip.succeed (n : Nat) : RoundTrip.Statement (.succeed n) := of_none rfl
theorem RoundTrip.fail (c : FailCause) : RoundTrip.Statement (.fail c) := of_none rfl
theorem RoundTrip.start (d : Nat) : RoundTrip.Statement (.start d) := of_none rfl
theorem RoundTrip.done : RoundTrip.Statement .done := of_none rfl
theorem RoundTrip.hwInit : RoundTrip.Statement .hwInit := of_none rfl
theorem RoundTrip.reset : RoundTrip.Statement .reset := of_none rfl
theorem RoundTrip.aOkSeq0 : RoundTrip.Statement .aOkSeq0 := of_none rfl
theorem RoundTrip.aHeaderAccepted : RoundTrip.Statement .aHeaderAccepted := of_none rfl
theorem RoundTrip.aHeaderMalformed : RoundTrip.Statement .aHeaderMalformed := of_none rfl
theorem RoundTrip.aLenExceedsCap : RoundTrip.Statement .aLenExceedsCap := of_none rfl
theorem RoundTrip.aProtocolError : RoundTrip.Statement .aProtocolError := of_none rfl
theorem RoundTrip.aAbort : RoundTrip.Statement .aAbort := of_none rfl
theorem RoundTrip.aOkSeqNonzero : RoundTrip.Statement .aOkSeqNonzero := of_none rfl
theorem RoundTrip.aEndOfTransfer : RoundTrip.Statement .aEndOfTransfer := of_none rfl
theorem RoundTrip.aTimeout : RoundTrip.Statement .aTimeout := of_none rfl
theorem RoundTrip.bEotComplete : RoundTrip.Statement .bEotComplete := of_none rfl
theorem RoundTrip.bEotShort : RoundTrip.Statement .bEotShort := of_none rfl
theorem RoundTrip.bOkWrongSeq : RoundTrip.Statement .bOkWrongSeq := of_none rfl
theorem RoundTrip.bOkOverrun : RoundTrip.Statement .bOkOverrun := of_none rfl
theorem RoundTrip.bOkAccept : RoundTrip.Statement .bOkAccept := of_none rfl
theorem RoundTrip.bProtocolError : RoundTrip.Statement .bProtocolError := of_none rfl
theorem RoundTrip.bAbort : RoundTrip.Statement .bAbort := of_none rfl
theorem RoundTrip.bTimeout : RoundTrip.Statement .bTimeout := of_none rfl
theorem RoundTrip.cEndOfTransfer : RoundTrip.Statement .cEndOfTransfer := of_none rfl
theorem RoundTrip.cOk : RoundTrip.Statement .cOk := of_none rfl
theorem RoundTrip.cProtocolError : RoundTrip.Statement .cProtocolError := of_none rfl
theorem RoundTrip.cTimeout : RoundTrip.Statement .cTimeout := of_none rfl
theorem RoundTrip.cAbort : RoundTrip.Statement .cAbort := of_none rfl

end Sys2Proof.Laws
end

