-- ==== Sys2Proof/Tests/Slice0.lean ====
section
/-! SUPPORT. Small tests. Expected results come from spec/95_test_vectors.md (V<n>, P<n>, S<n>), from the encodings of
spec/30_encoding.md written out, and from the rules' own examples. Then one witness for the hypotheses of each statement. -/

namespace Sys2Proof.Tests

open Sys2Proof.Machine

-- One theorem after the other: elaborated all at once, their stacks together exceed the memory limit of the check.
set_option Elab.async false

/-! ## Helpers -/

/-- A small machine at rest: 1000 ticks a second, 2048 bytes of DEST, 16 bytes of HWFIFO. -/
def base : State :=
  { State.reset with
    par := { cntW := 32, cntHz := 1000, readTimeoutTicks := 500, lenW := 32, destCap := 2048, fifoExtra := 15, diagText := [], termOkAborts := false } }

/-- The ring holds these bytes from index 0 on. -/
def withRing (bytes : List Byte) (s : State) : State :=
  { s with ring := bytes.zipIdx.map fun c => (c.2, c.1), ringRd := 0, ringWr := BitVec.ofNat 12 bytes.length,
           ringCnt := BitVec.ofNat 13 bytes.length }

/-- PKT holds this packet, all of its body read. -/
def withPacket (p : Packet) (s : State) : State :=
  { s with pkt := (encodeUnit (.packet p)).zipIdx.map fun c => (c.2, c.1), pktSize := p.size,
           pktIdx := BitVec.ofNat 11 (p.size.toNat + 5) }

/-- `receive` has returned in this phase with this Outcome. -/
def returnedWith (ph : Phase) (o : RecvOutcome) (s : State) : State :=
  { s with phase := ph, outcome := o, destRef := some 0, expSeq := 1 }

/-- `ramp(k, n)` of R91. -/
def ramp (k n : Nat) : List Byte := (List.range n).map fun i => BitVec.ofNat 8 (i + k)

/-- `pad(v, n)` of R91. -/
def pad (v : Byte) (n : Nat) : List Byte := List.replicate n v

/-- The packet G of the vectors, SOH(1, ramp(0,128)), as P1 writes it out. -/
def packetG : Packet := ⟨.short, 0x01, 0xFE, ramp 0 128, 0x05BE⟩

/-- H128 = HDR128("x", "128") as the vectors write it out. -/
def packetH128 : Packet := ⟨.short, 0x00, 0xFF, [0x78, 0x00, 0x31, 0x32, 0x38, 0x20] ++ pad 0 122, 0xB1EB⟩

/-- What a field of the next state holds. -/
def field (r : Result) (f : State → α) : Option α :=
  match r with
  | .next s => some (f s)
  | .fault _ => none
  | .refused _ => none

/-- In Phase B with G received, nothing yet accepted, TOTAL = 128. -/
def heldG : State := returnedWith .b .ok { withPacket packetG base with total := some 128 }

/-- In Phase A with H128 received. -/
def heldH128 : State := returnedWith .a .ok (withPacket packetH128 base)

/-! ## WellFormed: each check refuses an ill-formed term -/

theorem test_wf_illegal_with_legal_tag : (Instr.illegal 0x18).check 32 32 = .error .legalTag := by rfl
theorem test_wf_timeout_too_long : (Instr.readByte 0x80000000).check 32 32 = .error .timeoutTooLong := by rfl
theorem test_wf_timeout_longest : (Instr.readByte 0x7FFFFFFF).wf 32 32 = true := by decide
theorem test_wf_no_packet_size : (Instr.parseLen [] 0).check 32 32 = .error .sizeNotAPacketSize := by rfl
theorem test_wf_payload_length : (Instr.parseLen [0x00] 128).check 32 32 = .error .payloadLength := by rfl
theorem test_wf_report_no_cause : (Instr.report .none).check 32 32 = .error .noCause := by rfl
theorem test_wf_fail_no_cause : (Instr.fail .none).check 32 32 = .error .noCause := by rfl
theorem test_wf_length_too_long : (Instr.succeed 4294967296).check 32 32 = .error .lengthTooLong := by rfl
theorem test_wf_good : (Instr.illegal 0x43).wf 32 32 = true ∧ (Instr.fail .dataShort).wf 32 32 = true := by decide

/-! ## Decode: words written out from R75, R76, R90 -/

theorem test_decode_soh : decode .rx [0b00000001#8] = .ok (.soh, []) := by rfl
theorem test_decode_stx : decode .rx [0b00000010#8] = .ok (.stx, []) := by rfl
theorem test_decode_eot : decode .rx [0b00000100#8, 0xAA#8] = .ok (.eot, [0xAA#8]) := by rfl
theorem test_decode_can : decode .rx [0b00011000#8] = .ok (.can, []) := by rfl
theorem test_decode_illegal_edges : [0x00#8, 0x03#8, 0x05#8, 0x17#8, 0x19#8, 0xFF#8].map decodeLeading =
    [0x00#8, 0x03#8, 0x05#8, 0x17#8, 0x19#8, 0xFF#8].map Instr.illegal := by decide
theorem test_decode_ack : decode .tx [0b00000110#8] = .ok (.ack, []) := by rfl
theorem test_decode_nak : decode .tx [0b00010101#8] = .ok (.nak, []) := by rfl
theorem test_decode_crq : decode .tx [0b01000011#8] = .ok (.crq, []) := by rfl
theorem test_decode_can_tx : decode .tx [0b00011000#8] = .ok (.canTx, []) := by rfl
theorem test_decode_bs : decode .tx [0b00001000#8] = .ok (.bs, []) := by rfl
theorem test_decode_abort_seq :
    decode .tx [0x18#8, 0x18#8, 0x18#8, 0x18#8, 0x08#8, 0x08#8, 0x08#8, 0x08#8] = .ok (.abortSeq, []) := by rfl
theorem test_decode_not_control : decode .tx [0x01#8] = .error (.notControl 0x01#8) := by rfl
theorem test_decode_no_byte : decode .rx [] = .error .noByte := by rfl
theorem test_table_words : [0x01, 0x02, 0x04, 0x18, 0x06, 0x15, 0x43, 0x08, 0x00].map (decodeTableWord 8) =
    [some .soh, some .stx, some .eot, some .can, some .ack, some .nak, some .crq, some .bs, some (.illegal 0)] := by
  decide
/-- V25 of the unit formats: a mark is one byte; an illegal leading byte opens nothing (R79, R85). -/
theorem test_decode_unit_mark : decodeUnit [0x04#8, 0x04#8] = .ok (.eot, [0x04#8]) ∧
    decodeUnit [0x06#8, 0x01#8] = .error (.illegalTag 0x06#8) := ⟨rfl, rfl⟩
/-- P1: the first and last bytes of G as a sender makes it. -/
theorem test_encode_unit_g : (encodeUnit (.packet packetG)).take 4 = [0x01#8, 0x01#8, 0xFE#8, 0x00#8] ∧
    (encodeUnit (.packet packetG)).drop 130 = [0x7F#8, 0x05#8, 0xBE#8] := by decide +kernel
/-- H128: the header payload as a sender lays it out (R82, R91). -/
theorem test_header_payload : (headerPacket [0x78] [0x31, 0x32, 0x38]).payload = packetH128.payload := by decide +kernel

/-! ## CRC16: V1 to V13 -/

theorem test_crc_single_bytes : [[], [0x00#8], [0x01#8], [0x80#8], [0xFF#8], [0x41#8]].map crc16 =
    [0x0000#16, 0x0000#16, 0x1021#16, 0x9188#16, 0x1EF0#16, 0x58E5#16] := by decide +kernel
theorem test_crc_digits :
    crc16 [0x31#8, 0x32#8, 0x33#8, 0x34#8, 0x35#8, 0x36#8, 0x37#8, 0x38#8, 0x39#8] = 0x31C3#16 := by decide +kernel
theorem test_crc_step : [0x1021#16, 0xFFFF#16, 0x8000#16, 0x0080#16].map (crcStep · 0) =
    [0x3331#16, 0xE1F0#16, 0x9188#16, 0x8000#16] := by decide +kernel
/-- V13: the residue is zero with the high byte first, and not in the other order. -/
theorem test_crc_residue :
    crc16 [0x31#8, 0x32#8, 0x33#8, 0x34#8, 0x35#8, 0x36#8, 0x37#8, 0x38#8, 0x39#8, 0x31#8, 0xC3#8] = 0#16 ∧
    crc16 [0x31#8, 0x32#8, 0x33#8, 0x34#8, 0x35#8, 0x36#8, 0x37#8, 0x38#8, 0x39#8, 0xC3#8, 0x31#8] = 0xBAFE#16 := by
  decide +kernel
/-- V9, in two halves; the register in the middle is calculated by hand. -/
theorem test_crc_zero_payload : crc16 ((0x00#8 :: 0xFF#8 :: pad 0 64) ++ pad 0 64) = 0x76DA#16 := by
  have h : crc16 (0x00#8 :: 0xFF#8 :: pad 0 64) = 0xE3FB#16 := by decide +kernel
  rw [crc16_append, h]
  decide +kernel
/-- P1, S1: the residue over the body of G is zero; in two halves as above. -/
theorem test_crc_g : crc16 packetG.body = 0#16 := by
  have h : crc16 (packetG.body.take 66) = 0xFC22#16 := by decide +kernel
  rw [← List.take_append_drop 66 packetG.body, crc16_append, h]
  decide +kernel
theorem test_crc16_writes_crc : field (exec (.crc16 [0x01#8]) base) (·.crc) = some 0x1021#16 := by decide +kernel

/-! ## Header parsing: V35 to V44 -/

/-- A header payload padded with zero bytes. -/
def padded (bytes : List Byte) : List Byte := bytes ++ pad 0 (128 - bytes.length)

theorem test_parse_source_example : declaredLength 32 (padded [0x66, 0x69, 0x72, 0x6D, 0x77, 0x61, 0x72, 0x65, 0x2E, 0x62,
    0x69, 0x6E, 0x00, 0x32, 0x30, 0x34, 0x38, 0x30, 0x30, 0x20]) = some 204800 := by decide +kernel
theorem test_parse_leading_zeros_and_rest : declaredLength 32 (padded [0x61, 0x00, 0x30, 0x30, 0x30, 0x31, 0x32, 0x38,
    0x20, 0x72, 0x65, 0x73, 0x74]) = some 128 := by decide +kernel
theorem test_parse_empty_name : declaredLength 32 (padded [0x00, 0x30, 0x20]) = some 0 := by decide +kernel
theorem test_parse_largest : declaredLength 32 (padded [0x61, 0x00, 0x34, 0x32, 0x39, 0x34, 0x39, 0x36, 0x37, 0x32, 0x39,
    0x35, 0x20]) = some 4294967295 := by decide +kernel
theorem test_parse_too_large : declaredLength 32 (padded [0x61, 0x00, 0x34, 0x32, 0x39, 0x34, 0x39, 0x36, 0x37, 0x32,
    0x39, 0x36, 0x20]) = none := by decide +kernel
/-- V40 to V44: no NUL; no space; a letter; no digit; all zero. -/
theorem test_parse_malformed : [pad 0x41 128, padded [0x61, 0x00, 0x31, 0x32, 0x33],
    padded [0x61, 0x00, 0x31, 0x32, 0x78, 0x20], padded [0x61, 0x00, 0x20], pad 0 128].map (declaredLength 32) =
    [none, none, none, none, none] := by decide +kernel
theorem test_parse_len_returns : field (exec (.parseLen (padded [0x00, 0x31, 0x20]) 128) base) (·.ret) =
    some (.length (some 1)) := by decide +kernel
/-- What stands beyond a payload shorter than the size does not touch a length that the payload declares (R83). -/
theorem test_parse_len_short_payload : field (exec (.parseLen [0x00, 0x31, 0x20] 128) base) (·.ret) =
    some (.length (some 1)) := by decide +kernel

/-! ## Byte Receiver: V15 to V20 -/

/-- V16. -/
theorem test_ring_push_wraps : field (exec (.ringPush 0x41) { base with ringWr := 4095, ringRd := 4085, ringCnt := 10 })
    (fun s => (s.ring, s.ringWr, s.ringRd, s.ringCnt)) = some ([(4095, 0x41#8)], 0, 4085, 11) := by decide +kernel
/-- V17: a push on a full ring changes nothing. -/
theorem test_ring_push_full : field (exec (.ringPush 0xEE) { base with ringCnt := 4096 })
    (fun s => (s.ring, s.ringWr, s.ringCnt)) = some ([], 0, 4096) := by decide +kernel
/-- V15: the oldest byte first. -/
theorem test_ring_pop_oldest : field (exec .ringPop (withRing [0x01, 0x00] base))
    (fun s => (s.ret, s.ringRd, s.ringWr, s.ringCnt)) = some (.byte (some 0x01), 1, 2, 1) := by decide +kernel
theorem test_ring_pop_empty : field (exec .ringPop base) (·.ret) = some (.byte none) := by decide +kernel
theorem test_service_rx : field (exec .serviceRx { base with hwfifo := [0x01, 0x00] })
    (fun s => (s.ring, s.ringCnt, s.hwfifo)) = some ([(0, 0x01#8), (1, 0x00#8)], 2, []) := by decide +kernel
/-- V18: the deadline across the wrap. -/
theorem test_read_byte_deadline : field (exec (.readByte 0x200) { base with counter := 0xFFFFFF00 })
    (fun s => (s.deadline, s.pending)) = some (0x100, [.readPoll]) := by decide +kernel
theorem test_expired : [0xFFFFFFF0, 0x000000FF, 0x00000100, 0x00000101].map (expired 32 · 0x100) =
    [false, false, true, true] := by decide
/-- R117 with a counter of 8 bits. -/
theorem test_expired_narrow : [0xF0, 0x0F, 0x10, 0x8F, 0x90].map (expired 8 · 0x10) =
    [false, false, true, true, false] := by decide
/-- R116: a byte that is there is returned even with timeout 0. -/
theorem test_read_byte_available : field (exec (.readByte 0) (withRing [0x01, 0x00] base)) (·.ret) =
    some (.byte (some 0x01)) := by decide +kernel
/-- V20. -/
theorem test_write_byte_services : field (exec (.writeByte 0x06) { base with hwfifo := [0x01, 0x00] })
    (fun s => (s.txlog, s.ringCnt, s.hwfifo)) = some ([0x06], 2, []) := by decide +kernel
theorem test_write_byte_waits : field (exec (.writeByte 0x06) { base with txReady := false })
    (fun s => (s.txlog, s.pending)) = some ([], [.call (.writeByte 0x06)]) := by decide +kernel
/-- V19, with three and two bytes. -/
theorem test_discard_input : field (exec .discardInput (withRing [1, 2, 3] { base with hwfifo := [4, 5], line := [6] }))
    (fun s => (s.ringCnt, s.ringRd, s.hwfifo, s.line)) = some (0, 3, [], [6]) := by decide +kernel

/-! ## Transmitted control bytes (R90) -/

theorem test_transmitted_bytes : [Instr.ack, .nak, .crq, .canTx, .bs].map (fun i => field (exec i base) (·.txlog)) =
    [some [0x06], some [0x15], some [0x43], some [0x18], some [0x08]] := by decide +kernel
theorem test_abort_seq : field (exec .abortSeq base) (·.pending) = some
    [.call .canTx, .call .canTx, .call .canTx, .call .canTx, .call .bs, .call .bs, .call .bs, .call .bs] := by
  decide +kernel

/-! ## Packet Receiver: V21 to V34 -/

/-- A `receive` waits for a leading byte with this tolerance. -/
def atTag (tol : BitVec 2) : State := { base with rxState := .tag, tolRem := tol, phase := .a, pending := [.dispatch] }

theorem test_receive_begins : field (exec (.receive 3) base) (fun s => (s.rxState, s.tolRem, s.deadline, s.pending)) =
    some (.tag, 3, 500, [.rx]) := by decide +kernel
theorem test_soh : field (exec .soh (atTag 0)) (fun s => (s.pkt, s.pktSize, s.pktIdx, s.rxState)) =
    some ([(0, 0x01#8)], .short, 1, .body) := by decide +kernel
theorem test_stx : field (exec .stx (atTag 0)) (fun s => (s.pkt, s.pktSize, s.pktIdx, s.rxState)) =
    some ([(0, 0x02#8)], .long, 1, .body) := by decide +kernel
theorem test_eot : field (exec .eot (atTag 2)) (fun s => (s.outcome, s.rxState)) =
    some (.endOfTransfer, .idle) := by decide +kernel
/-- V27: with tolerance 0 the first cancel byte aborts. -/
theorem test_can_aborts : field (exec .can (atTag 0)) (fun s => (s.outcome, s.rxState)) = some (.abort, .idle) := by
  decide +kernel
/-- V25: with tolerance left it is skipped. -/
theorem test_can_skips : field (exec .can (atTag 3)) (fun s => (s.tolRem, s.rxState)) = some (2, .tag) := by
  decide +kernel
theorem test_illegal : field (exec (.illegal 0x43) (atTag 3)) (fun s => (s.outcome, s.rxState)) =
    some (.protocolError, .idle) := by decide +kernel
/-- V28: one byte is consumed, two are left. -/
theorem test_illegal_consumes_one : field (step { withRing [0x06, 0x01, 0x02] (atTag 0) with pending := [.rx] })
    (fun s => (s.outcome, ringBytes s)) = some (.protocolError, [0x01, 0x02]) := by decide +kernel
/-- V32: G is `Ok`. -/
theorem test_classify_g : classifyBody packetG.body = .ok := by
  have h : residueZero packetG.body = true := by rw [residueZero, test_crc_g]; rfl
  rw [classifyBody, h]
  decide +kernel
/-- V21, V22: a wrong complement, a wrong sequence number. -/
theorem test_receive_bad_pair : [{ packetG with cmpl := 0xFF }, { packetG with seq := 0x00 }].map
      (fun p => field (step { withPacket p base with rxState := .check, pending := [.rx] }) (·.outcome)) =
    [some .protocolError, some .protocolError] := by decide +kernel
/-- G with its last byte BF. -/
def packetBF : Packet := { packetG with crcField := 0x05BF }
/-- V23. -/
theorem test_classify_bad_check : classifyBody packetBF.body = .protocolError := by
  have h : crc16 (packetBF.body.take 66) = 0xFC22#16 := by decide +kernel
  have hr : residueZero packetBF.body = false := by
    rw [residueZero, ← List.take_append_drop 66 packetBF.body, crc16_append, h]
    decide +kernel
  rw [classifyBody, hr]
  decide +kernel
/-- V25, V26, V28, V30, V31, V33 in one piece (R146, R147). -/
theorem test_receive_piece :
    receivePiece 3 [0x18, 0x18, 0x18, 0x04] = some (.endOfTransfer, 4) ∧
    receivePiece 3 [0x18, 0x18, 0x18, 0x18] = some (.abort, 4) ∧
    receivePiece 0 [0x06, 0x01, 0x02] = some (.protocolError, 1) ∧
    receivePiece 0 ((encodeUnit (.packet packetG)).take 50) = none ∧
    receivePiece 0 [] = none ∧ receivePiece 0 [0x04, 0x04] = some (.endOfTransfer, 1) := by decide +kernel

/-! ## Session Controller -/

theorem test_phase_a_attempt : field (exec .phaseAAttempt { withRing [1] base with phase := .a })
    (fun s => (s.ringCnt, s.pending)) = some (0, [.call .crq, .call (.receive 3), .dispatch]) := by decide +kernel
theorem test_phase_b_step : field (exec .phaseBStep { withRing [1] base with phase := .b })
    (fun s => (s.ringCnt, s.tolRem, s.rxState, s.pending)) = some (1, 0, .tag, [.rx, .dispatch]) := by decide +kernel
theorem test_phase_c_step : field (exec .phaseCStep { withRing [1] base with phase := .c })
    (fun s => (s.ringCnt, s.tolRem, s.rxState, s.pending)) = some (1, 0, .tag, [.rx, .dispatch]) := by decide +kernel
theorem test_abort_procedure : field (exec .abortProcedure base) (·.pending) =
    some [.call .abortSeq, .call .discardInput] := by decide +kernel
theorem test_report : field (exec (.report .dataShort)
      { base with par := { base.par with diagText := [(.dataShort, [0x41, 0x42])] } }) (·.pending) =
    some [.call (.writeByte 0x41), .call (.writeByte 0x42)] := by decide +kernel
theorem test_succeed : field (exec (.succeed 128) { base with phase := .c }) (fun s => (s.result, s.phase, s.pending)) =
    some (some (.success 128), .idle, [.call .done]) := by decide +kernel
theorem test_fail : field (exec (.fail .dataShort) { base with phase := .b })
    (fun s => (s.result, failCode s.failCause, s.phase)) = some (some .failure, 6, .idle) := by decide +kernel

/-! ### Phase A -/

theorem test_a_ok_seq0 : field (exec .aOkSeq0 heldH128) (·.pending) =
    some [.call (.parseLen packetH128.payload 128), .header] := by decide +kernel
theorem test_a_header_accepted : field (exec .aHeaderAccepted heldH128) (fun s => (s.total, s.txlog, s.pending)) =
    some (some 128, [0x06], [.call .crq, .enterB]) := by decide +kernel
/-- V48. -/
theorem test_a_header_malformed :
    field (exec .aHeaderMalformed (returnedWith .a .ok (withPacket (goodPacket .short 0 (pad 0 128)) base)))
      (fun s => (s.txlog, s.pending)) = some ([], [.call .abortProcedure, .call (.fail .hsBadHeader)]) := by
  decide +kernel
/-- V49: DEST_CAP = 1024, "2048". -/
theorem test_a_len_exceeds_cap :
    field (exec .aLenExceedsCap { returnedWith .a .ok
        (withPacket (headerPacket [0x61] [0x32, 0x30, 0x34, 0x38]) base) with par := { base.par with destCap := 1024 } })
      (fun s => (s.txlog, s.pending)) = some ([], [.call .abortProcedure, .call (.fail .hsLenExceedsCap)]) := by
  decide +kernel
theorem test_a_protocol_error : field (exec .aProtocolError (returnedWith .a .protocolError base)) (·.pending) =
    some [.call .abortProcedure, .call (.fail .hsProtocolError)] := by decide +kernel
/-- V47: `ACK`, then failure. -/
theorem test_a_abort : field (exec .aAbort (returnedWith .a .abort base))
    (fun s => (s.txlog, s.result, s.failCause, s.phase)) = some ([0x06], some .failure, .hsAbort, .idle) := by
  decide +kernel
/-- V50: a data packet in the handshake is answered with NAK. -/
theorem test_a_ok_seq_nonzero : field (exec .aOkSeqNonzero (returnedWith .a .ok (withPacket packetG base)))
    (fun s => (s.txlog, s.pending)) = some ([0x15], [.call .phaseAAttempt]) := by decide +kernel
theorem test_a_end_of_transfer : field (exec .aEndOfTransfer (returnedWith .a .endOfTransfer base)) (·.pending) =
    some [.call .abortProcedure, .call (.fail .hsUnexpectedEot)] := by decide +kernel
theorem test_a_timeout : field (exec .aTimeout (returnedWith .a .timeout base)) (fun s => (s.txlog, s.pending)) =
    some ([], [.call .phaseAAttempt]) := by decide +kernel

/-! ### Phase B -/

/-- In Phase B after an end-of-transfer marker, with 1024 bytes received. -/
def markerB (total : Nat) : State := { returnedWith .b .endOfTransfer base with rcvd := 1024, total := some total }

theorem test_b_eot_complete : field (exec .bEotComplete (markerB 1024)) (fun s => (s.txlog, s.pending)) =
    some ([0x06], [.call .crq, .enterC]) := by decide +kernel
/-- P4. -/
theorem test_b_eot_short : field (exec .bEotShort (markerB 2050)) (fun s => (s.txlog, s.pending)) =
    some ([0x06], [.call .crq, .call .abortProcedure, .call (.report .dataShort), .call (.fail .dataShort)]) := by
  decide +kernel
/-- P5. -/
theorem test_b_ok_wrong_seq : field (exec .bOkWrongSeq { heldG with expSeq := 2 })
    (fun s => (s.txlog, s.expSeq, s.rcvd, s.pending)) =
    some ([0x15], 2, 0, [.call .discardInput, .call .phaseBStep]) := by decide +kernel
/-- V60: nothing fits into TOTAL = 0. -/
theorem test_b_ok_overrun : field (exec .bOkOverrun { heldG with total := some 0 })
    (fun s => (s.txlog, s.dest, s.pending)) =
    some ([], [], [.call .abortProcedure, .call (.fail .dataOverrun)]) := by decide +kernel
/-- V50: G accepted: the ACK is out and no byte is copied yet (R65). -/
theorem test_b_ok_accept : field (exec .bOkAccept heldG) (fun s => (s.txlog, s.expSeq, s.dest, s.pending)) =
    some ([0x06], 2, [], [.copy 0]) := by decide +kernel
/-- S3: the expected sequence number wraps from 255 to 0. -/
def held255 : State := { returnedWith .b .ok { withPacket (goodPacket .short 255 (pad 0xFE 128)) base with
    total := some 256, rcvd := 128 } with expSeq := 255 }
theorem test_b_ok_accept_wraps : field (exec .bOkAccept held255) (·.expSeq) = some 0 := by decide +kernel
/-- V50, the second byte of ramp(0,128). -/
theorem test_copy_byte : field (step { heldG with pending := [.copy 1] }) (fun s => (s.dest, s.rcvd, s.pending)) =
    some ([(1, 0x01#8)], 0, [.copy 2]) := by decide +kernel
/-- The last byte of the packet that ends at offset 255. -/
theorem test_copy_last_byte : field (step { held255 with pending := [.copy 127] })
    (fun s => (s.dest, s.rcvd, s.pending)) = some ([(255, 0xFE#8)], 256, [.call .phaseBStep]) := by decide +kernel
/-- A power cycle in the middle of the copy leaves a partly written buffer (R58, R198). -/
theorem test_copy_cut_by_reset :
    field (step { heldG with dest := [(0, 0x00#8)], pending := [.copy 1], script := [.hostReset] })
      (fun s => (s.dest, s.phase, s.pending)) = some ([(0, 0x00#8)], .idle, [.call .hwInit]) := by decide +kernel
theorem test_b_protocol_error : field (exec .bProtocolError (returnedWith .b .protocolError base)) (·.pending) =
    some [.call .abortProcedure, .call (.fail .dataProtocolError)] := by decide +kernel
/-- V53: nothing is sent. -/
theorem test_b_abort : field (exec .bAbort (returnedWith .b .abort base)) (fun s => (s.txlog, s.result, s.failCause)) =
    some ([], some .failure, .dataAbort) := by decide +kernel
theorem test_b_timeout : field (exec .bTimeout (returnedWith .b .timeout base)) (·.pending) =
    some [.call .abortProcedure, .call (.fail .dataTimeout)] := by decide +kernel

/-! ### Phase C -/

theorem test_c_end_of_transfer : field (exec .cEndOfTransfer { returnedWith .c .endOfTransfer base with
      total := some 128, rcvd := 128 }) (fun s => (s.txlog, s.result, s.phase)) =
    some ([0x06], some (.success 128), .idle) := by decide +kernel
/-- V55: nothing is sent; with TERM_OK_ABORTS the abort procedure runs (U4). -/
theorem test_c_ok : field (exec .cOk (returnedWith .c .ok base)) (fun s => (s.txlog, s.failCause)) =
      some ([], .termUnexpectedPacket) ∧
    field (exec .cOk { returnedWith .c .ok base with par := { base.par with termOkAborts := true } }) (·.pending) =
      some [.call .abortProcedure, .call (.fail .termUnexpectedPacket)] := by decide +kernel
theorem test_c_protocol_error : field (exec .cProtocolError (returnedWith .c .protocolError base)) (·.pending) =
    some [.call .abortProcedure, .call (.fail .termProtocolError)] := by decide +kernel
theorem test_c_timeout : field (exec .cTimeout (returnedWith .c .timeout base)) (·.pending) =
    some [.call .abortProcedure, .call (.fail .termTimeout)] := by decide +kernel
/-- V57. -/
theorem test_c_abort : field (exec .cAbort (returnedWith .c .abort base)) (fun s => (s.txlog, s.failCause)) =
    some ([], .termAbort) := by decide +kernel

/-! ## Boundary -/

theorem test_start : field (exec (.start 7) base) (fun s => (s.phase, s.expSeq, s.rcvd, s.pending)) =
    some (.a, 1, 0, [.call .phaseAAttempt]) := by decide +kernel
theorem test_start_busy : field (exec (.start 7) { base with phase := .b }) (fun s => (s.phase, s.destRef)) =
    some (.b, none) := by decide +kernel
theorem test_done : field (exec .done { base with result := some .failure }) (·.handed) = some [.failure] := by
  decide +kernel
theorem test_hw_init : field (exec .hwInit (withRing [1, 2] { base with hwfifo := [3] }))
    (fun s => (s.ringWr, s.ringRd, s.ringCnt, s.hwfifo)) = some (0, 0, 0, []) := by decide +kernel
theorem test_reset : field (exec .reset { base with phase := .b, txlog := [1], dest := [(5, 0xEE#8)], line := [9] })
    (fun s => (s.phase, s.txlog, s.dest, s.line)) = some (.idle, [], [(5, 0xEE#8)], [9]) := by decide +kernel
/-- R240: `hw_init` follows `rst`, once: what arrived meanwhile is dropped, and then the block is at rest. -/
theorem test_hw_init_after_reset : field (exec .reset base) (·.pending) = some [.call .hwInit] ∧
    field (step { base with pending := [.call .hwInit], hwfifo := [3] }) (fun s => (s.hwfifo, s.pending)) = some ([], []) := by
  decide +kernel
/-- R198: no session starts before `hw_init()` has run. -/
theorem test_no_start_before_hw_init : [Event.hostStart 7, .hostLoop 7].map (fun e =>
      field (step { base with pending := [.call .hwInit], script := [e] }) (fun s => (s.phase, s.pending))) =
    [some (.idle, [.call .hwInit]), some (.idle, [.call .hwInit])] := by decide +kernel

/-! ## Witnesses: states and operands that meet the hypotheses of each statement

A statement is named in the theorem's name; each clause has its own conjunct, at a boundary of its range where it has one. -/

/-- An operation that goes on leaves a state of which a checked property holds. -/
theorem exists_next {r : Result} (f : State → Bool) (h : field r f = some true) : ∃ t, r = .next t ∧ f t = true := by
  cases r with
  | next s => exact ⟨s, rfl, by simpa [field] using h⟩
  | fault _ => cases h
  | refused _ => cases h

theorem ringOk_base : RingOk base := ⟨by decide, by decide, fun k hk => absurd hk (by simp [base, State.reset])⟩

/-- Three bytes stored across the end of the ring. -/
def wrapped : State :=
  { base with ring := [(0, 0x04#8), (4094, 0x18#8), (4095, 0x43#8)], ringRd := 4094, ringWr := 1, ringCnt := 3 }

theorem ringOk_wrapped : RingOk wrapped := ⟨by decide, by decide, by decide +kernel⟩

/-- A full ring, by its count. -/
def full : State := { base with ringCnt := 4096 }

theorem ok_of_toOption {e : Except Fault Instr} {i : Instr} (h : e.toOption = some i) : e = .ok i := by
  cases e with
  | ok j => simpa [Except.toOption] using h
  | error _ => cases h

/-- One state and operand for each way a CORE's turn fetches. -/
theorem witness_StepRunsWhatItFetches :
    (coreTurn base base ∧ base.pending = []) ∧
    (∃ s0, coreTurn { base with script := [.core, .tick 1] } s0 ∧ s0.script = [.tick 1]) ∧
    (∃ b s1, pollRead { wrapped with rxState := .tag } = .byte b s1 ∧ decodeLeading b = .can) ∧
    selectBranch heldG = .ok .bOkAccept ∧ selectHeader heldH128 = .ok .aHeaderAccepted :=
  ⟨⟨.inl ⟨rfl, rfl⟩, rfl⟩, ⟨_, .inr ⟨_, rfl, rfl⟩, rfl⟩, ⟨_, _, rfl, rfl⟩, ok_of_toOption (by decide +kernel),
    ok_of_toOption (by decide +kernel)⟩

theorem witness_PlacedWordIsRunNext : RingOk base ∧ RingOk wrapped ∧ legalTag 0x18 = true ∧
    legalTag 0x06 = false ∧ decodeControl 0x06 = some .ack ∧ decodeControl 0x00 = none :=
  ⟨ringOk_base, ringOk_wrapped, by decide⟩

theorem witness_UnitsDecodeAsEncoded : (RxUnit.packet packetG).wf = true ∧ RxUnit.eot.wf = true ∧
    (RxUnit.packet (goodPacket .long 2 (ramp 0x80 1024))).wf = true := by decide +kernel

theorem witness_PacketLayoutByOffset : (ramp 0 128).length = PktSize.short.toNat ∧
    (pad 0x1A 1024).length = PktSize.long.toNat := by decide +kernel

theorem witness_CrcIsLinear : ([0x01#8, 0x80#8] : List Byte).length = [0xFF#8, 0x00#8].length := by decide

theorem witness_ValueOperationsReturn : 128 ≤ (pad 0 128).length ∧ (pad 0 127).length < 128 := by decide +kernel

theorem witness_RingPushStoresOrDrops : base.ringCnt.toNat ≠ 4096 ∧ full.ringCnt.toNat = 4096 ∧
    ({ base with ringWr := 4095 } : State).ringWr.toNat = 4095 := by decide +kernel

theorem witness_RingPopTakesTheOldest : base.ringCnt = 0 ∧
    (wrapped.ringCnt ≠ 0 ∧ wrapped.ring.read wrapped.ringRd.toNat = some 0x18#8) ∧
    (({ base with ringCnt := 1 } : State).ringCnt ≠ 0 ∧ base.ring.read base.ringRd.toNat = none) := by decide +kernel

theorem witness_RingIsAFifo : (RingOk wrapped ∧ ringBytes wrapped = [0x18#8, 0x43#8, 0x04#8]) ∧
    (RingOk base ∧ ringBytes base = []) ∧ ∃ t, exec (.ringPush 0x41) wrapped = .next t :=
  ⟨⟨ringOk_wrapped, by decide +kernel⟩, ⟨ringOk_base, by decide +kernel⟩, ⟨_, rfl⟩⟩

theorem witness_ServiceRxDrainsTheFifo : RingOk { wrapped with hwfifo := [0x01#8] } :=
  ringOk_wrapped.congr rfl rfl rfl rfl

theorem witness_DiscardInputEmptiesBoth : RingOk wrapped := ringOk_wrapped

/-- A byte in the ring; a byte in the hardware FIFO only. -/
theorem witness_ReadByteReturnsTheOldest :
    (RingOk wrapped ∧ ringBytes wrapped ++ wrapped.hwfifo = 0x18#8 :: [0x43#8, 0x04#8]) ∧
    (RingOk { base with hwfifo := [0x01#8] } ∧ ringBytes { base with hwfifo := [0x01#8] } ++ [0x01#8] = 0x01#8 :: []) :=
  ⟨⟨ringOk_wrapped, by decide +kernel⟩, ringOk_base.congr rfl rfl rfl rfl, by decide +kernel⟩

theorem witness_ReadByteWaitsForTheDeadline :
    (RingOk base ∧ ringBytes base = [] ∧ base.hwfifo = [] ∧ expired 32 base.counter (base.counter + 0) = true ∧
      expired 32 base.counter (base.counter + 1) = false) ∧
    (RingOk { base with pending := [.readPoll] } ∧ ({ base with pending := [.readPoll] } : State).script = []) ∧
    ∃ t, pollRead base = .none t :=
  ⟨⟨ringOk_base, by decide +kernel, rfl, by decide, by decide⟩, ⟨ringOk_base.congr rfl rfl rfl rfl, rfl⟩, ⟨_, rfl⟩⟩

/-- The largest timeout, sampled at the last moment the test is right. -/
theorem witness_DeadlineTestSurvivesWraparound : 2147483647 < 2147483648 ∧
    4294967294 < 2147483647 + 2147483648 := by decide

theorem witness_WritesSendOrWait : base.txReady = true ∧ ({ base with txReady := false } : State).txReady = false ∧
    (Instr.writeByte 0x41#8, 0x41#8) ∈ [(Instr.ack, 0x06#8), (.writeByte 0x41#8, 0x41#8)] := by decide

theorem witness_ReceiveBegins : base.rxState = .idle ∧ (atTag 3).rxState ≠ .idle := by decide

theorem witness_TagRows : (atTag 0).rxState = .tag ∧ (atTag 0).tolRem = 0 ∧ (atTag 3).tolRem ≠ 0 ∧
    base.rxState ≠ .tag := by decide

/-- StartTagsOpenTheBody, EotReturnsAtOnce, CancelByteTestsThenDecrements and TagsOnlyInLeadingPosition take the state
above; the second clause of IllegalLeadingByte this one. -/
theorem witness_IllegalLeadingByte : ∃ s : State, coreTurn s s ∧ RingOk s ∧ s.pending = .rx :: [.dispatch] ∧
    s.rxState = .tag ∧ (ringBytes s ++ s.hwfifo).take 4096 = 0x43#8 :: [0x04#8] ∧
    (0x43#8 : Byte) ∉ [0x01#8, 0x02#8, 0x04#8, 0x18#8] :=
  ⟨{ withRing [0x43, 0x04] base with rxState := .tag, pending := [.rx, .dispatch] }, .inl ⟨rfl, rfl⟩,
    ⟨by decide, by decide, by decide +kernel⟩, rfl, rfl, by decide +kernel, by decide⟩

/-- In the body of a start-128 packet, `i` bytes of it stored. -/
def inBody (i : Nat) : State :=
  { withRing [0x18, 0x04] base with
    rxState := .body, pktSize := .short, pktIdx := BitVec.ofNat 11 i, pending := [.rx, .dispatch], phase := .b }

/-- The first body byte and the last. -/
theorem witness_BodyBytesAreStoredInOrder : ∀ i ∈ [1, 132], coreTurn (inBody i) (inBody i) ∧ RingOk (inBody i) ∧
    (inBody i).pending = .rx :: [.dispatch] ∧ (inBody i).rxState = .body ∧
    (inBody i).pktIdx.toNat ≤ (inBody i).pktSize.toNat + 4 ∧
    (ringBytes (inBody i) ++ (inBody i).hwfifo).take 4096 = 0x18#8 :: [0x04#8] := by
  intro i hi
  refine ⟨.inl ⟨rfl, rfl⟩, ⟨?_, ?_, ?_⟩, rfl, rfl, ?_, ?_⟩ <;>
    (simp only [List.mem_cons, List.not_mem_nil, or_false] at hi; rcases hi with rfl | rfl <;> decide +kernel)

/-- A read with nothing pending, in the leading position and in the body; the deadline passed, and not. -/
theorem witness_MissingByteIsTimeout :
    (∃ s : State, coreTurn s s ∧ RingOk s ∧ s.pending = .rx :: [.dispatch] ∧ s.rxState = .tag ∧ ringBytes s = [] ∧
      s.hwfifo = [] ∧ expired s.par.cntW s.counter s.deadline = true) ∧
    (∃ s : State, coreTurn s s ∧ RingOk s ∧ s.pending = .rx :: [.dispatch] ∧ s.rxState = .body ∧
      s.pktIdx.toNat ≤ s.pktSize.toNat + 4 ∧ ringBytes s = [] ∧ s.hwfifo = [] ∧
      expired s.par.cntW s.counter s.deadline = false) :=
  ⟨⟨{ base with rxState := .tag, pending := [.rx, .dispatch] }, .inl ⟨rfl, rfl⟩, ringOk_base.congr rfl rfl rfl rfl,
      rfl, rfl, by decide +kernel, rfl, by decide⟩,
    ⟨{ base with rxState := .body, pending := [.rx, .dispatch], pktIdx := 132, deadline := 1 }, .inl ⟨rfl, rfl⟩,
      ringOk_base.congr rfl rfl rfl rfl, rfl, rfl, by decide, by decide +kernel, rfl, by decide⟩⟩

/-- A complete packet with a good pair, and one with a broken pair. -/
theorem witness_CompletePacketIsClassified : ∀ p ∈ [packetG, { packetG with cmpl := 0xFF }, { packetG with crcField := 0 }],
    ∃ s : State, coreTurn s s ∧ s.pending = .rx :: [.dispatch] ∧ s.rxState = .check ∧
      s.pkt.readAll 1 (s.pktSize.toNat + 4) = some (p.seq :: p.cmpl :: (p.payload ++ [checkHi p.crcField, checkLo p.crcField])) := by
  intro p hp
  refine ⟨{ withPacket p base with rxState := .check, pending := [.rx, .dispatch] }, .inl ⟨rfl, rfl⟩, rfl, rfl, ?_⟩
  simp only [List.mem_cons, List.not_mem_nil, or_false] at hp
  rcases hp with rfl | rfl | rfl <;> decide +kernel

/-- V25, and V32. -/
theorem witness_ReceiveIsTheOnePieceAlgorithm :
    (∃ s : State, RingOk s ∧ s.script = [] ∧ s.hwfifo = [] ∧ s.rxState = .idle ∧ s.pending = .call (.receive 3) :: [] ∧
      receivePiece (3#2).toNat (ringBytes s) = some (.endOfTransfer, 4)) ∧
    receivePiece 0 (encodeUnit (.packet packetG)) = some (.ok, 133) :=
  ⟨⟨{ withRing [0x18, 0x18, 0x18, 0x04] base with pending := [.call (.receive 3)] },
      ⟨by decide, by decide, by decide +kernel⟩, rfl, rfl, rfl, rfl, by decide +kernel⟩, by
    have h : packetG.body.take 132 = packetG.body := by decide +kernel
    refine (if_pos (by decide)).trans ((if_neg (by decide +kernel)).trans ?_)
    show some (classifyBody (packetG.body.take 132), 133) = _
    rw [h, test_classify_g]⟩

theorem witness_ReceiveNeitherSendsNorDiscards : ∃ t, coreTurn (inBody 1) (inBody 1) ∧ RingOk (inBody 1) ∧
    (inBody 1).pending = .rx :: [.dispatch] ∧ step (inBody 1) = .next t := by
  obtain ⟨t, ht, _⟩ := exists_next (r := step (inBody 1)) (fun _ => true) (by decide +kernel)
  exact ⟨t, .inl ⟨rfl, rfl⟩, ⟨by decide, by decide, by decide +kernel⟩, rfl, ht⟩

theorem witness_PhaseStepsBegin : ({ base with phase := .a } : State).phase = .a ∧
    (({ base with phase := .b } : State).phase = .b ∧ base.rxState = .idle) ∧ base.phase ≠ .c := by decide

/-- A header that is accepted at the very capacity, one over it, one malformed. -/
theorem witness_HeaderIsParsedThenSorted :
    (heldH128.phase = .a ∧ heldH128.outcome = .ok ∧ seqOf heldH128 = some 0 ∧
      payloadOf heldH128 = some packetH128.payload ∧ declaredLength 32 packetH128.payload = some 128) ∧
    (128) ≤ ({ heldH128 with par := { base.par with destCap := 128 } } : State).par.destCap ∧
    ({ heldH128 with par := { base.par with destCap := 127 } } : State).par.destCap < (128) ∧
    declaredLength 32 (pad 0 128) = none := by decide +kernel

theorem witness_WellFormedHeaderLength : 0x00#8 ∉ ([0x61#8] : List Byte) ∧
    [0x34#8, 0x32#8, 0x39#8, 0x34#8, 0x39#8, 0x36#8, 0x37#8, 0x32#8, 0x39#8, 0x35#8] ≠ [] ∧
    (∀ c ∈ [0x34#8, 0x32#8, 0x39#8, 0x34#8, 0x39#8, 0x36#8, 0x37#8, 0x32#8, 0x39#8, 0x35#8], 0x30#8 ≤ c ∧ c ≤ 0x39#8) ∧
    decimalValue [0x34#8, 0x32#8, 0x39#8, 0x34#8, 0x39#8, 0x36#8, 0x37#8, 0x32#8, 0x39#8, 0x35#8] = 4294967295 := by
  decide

/-- The bytes on both sides of the digits, and the first number that does not fit. -/
theorem witness_MalformedHeaderLength : ((0x2F#8 : Byte) < 0x30#8 ∧ (0x2F#8 : Byte) ≠ 0x20#8) ∧
    ((0x39#8 : Byte) < 0x3A#8 ∧ (0x3A#8 : Byte) ≠ 0x20#8) ∧
    4294967296 ≤ decimalValue [0x34#8, 0x32#8, 0x39#8, 0x34#8, 0x39#8, 0x36#8, 0x37#8, 0x32#8, 0x39#8, 0x36#8] := by
  decide

theorem witness_HeaderAcceptedLeadsToPhaseB : heldH128.phase = .a ∧ heldH128.outcome = .ok ∧
    seqOf heldH128 = some 0 ∧ payloadOf heldH128 = some packetH128.payload ∧
    declaredLength 32 packetH128.payload = some 128 ∧ 128 ≤ heldH128.par.destCap ∧ heldH128.txReady = true ∧
    heldH128.script = [] := by decide +kernel

theorem witness_AbortProcedureSendsAndDrains : (markerB 2050).txReady = true ∧ (markerB 2050).script = [] := by decide

theorem witness_ProtocolErrorsAndTimeoutsAbort : ∀ e ∈ abortingBranches, ∃ s : State, s.phase = e.2.1 ∧
    s.outcome = e.2.2.1 ∧ s.txReady = true ∧ s.script = [] :=
  fun e _ => ⟨returnedWith e.2.1 e.2.2.1 base, rfl, rfl, rfl, rfl⟩

/-- One byte too many. -/
theorem witness_OverrunAborts : heldG.phase = .b ∧ heldG.outcome = .ok ∧ seqOf heldG = some heldG.expSeq ∧
    ({ heldG with total := some 127 } : State).total = some 127 ∧
    127 < heldG.rcvd + heldG.pktSize.toNat ∧ heldG.txReady = true ∧ heldG.script = [] := by
  decide +kernel

theorem witness_DecidedFailures :
    ((returnedWith .a .endOfTransfer base).phase = .a ∧ (returnedWith .a .endOfTransfer base).outcome = .endOfTransfer) ∧
    (seqOf heldH128 = some 0 ∧ payloadOf heldH128 = some packetH128.payload ∧
      declaredLength 32 packetH128.payload = some 128 ∧
      ({ heldH128 with par := { base.par with destCap := 127 } } : State).par.destCap < (128)) ∧
    (∃ s : State, s.phase = .a ∧ s.outcome = .ok ∧ seqOf s = some 0 ∧ payloadOf s = some (pad 0 128) ∧
      declaredLength 32 (pad 0 128) = none) ∧
    ((returnedWith .c .ok base).phase = .c ∧ (returnedWith .c .ok base).par.termOkAborts = false) ∧
    ({ base.par with termOkAborts := true } : Params).termOkAborts = true :=
  ⟨by decide, by decide +kernel,
    ⟨returnedWith .a .ok (withPacket (goodPacket .short 0 (pad 0 128)) base), rfl, rfl, by decide +kernel⟩,
    by decide, rfl⟩

theorem witness_HandshakeAbortIsAcknowledged : (returnedWith .a .abort base).phase = .a ∧
    (returnedWith .a .abort base).outcome = .abort ∧ base.txReady = true := by decide

theorem witness_LaterAbortsFailAtOnce : (returnedWith .b .abort base).outcome = .abort ∧
    (returnedWith .b .abort base).phase = .b ∧ (returnedWith .c .abort base).phase = .c := by decide

theorem witness_HandshakeRetries : ((returnedWith .a .timeout base).phase = .a ∧
    (returnedWith .a .timeout base).outcome = .timeout) ∧
    ∃ s : State, s.phase = .a ∧ s.outcome = .ok ∧ seqOf s = some 1 ∧ (1 : Byte) ≠ 0 ∧ s.txReady = true :=
  ⟨by decide, ⟨returnedWith .a .ok (withPacket packetG base), rfl, rfl, by decide +kernel⟩⟩

/-- RCVD equal to TOTAL; RCVD one below it. -/
theorem witness_EotBranches : (markerB 1024).phase = .b ∧ (markerB 1024).outcome = .endOfTransfer ∧
    (markerB 1024).total = some 1024 ∧ (1024) ≤ (markerB 1024).rcvd ∧ (markerB 1025).total = some 1025 ∧
    (markerB 1025).rcvd < (1025) ∧ (markerB 1025).txReady = true ∧ (markerB 1025).script = [] ∧
    diagTextOf (markerB 1025).par .dataShort = [] := by decide

theorem witness_UnexpectedSequenceIsRefused : ∃ s : State, s.phase = .b ∧ s.outcome = .ok ∧ seqOf s = some 1 ∧
    (1 : Byte) ≠ s.expSeq ∧ s.txReady = true ∧ s.script = [] :=
  ⟨{ heldG with expSeq := 2 }, rfl, rfl, by decide +kernel⟩

/-- The payload fits exactly, into TOTAL and into DEST. -/
theorem witness_ExpectedPacketIsAppended : ∃ s : State, s.phase = .b ∧ s.outcome = .ok ∧ seqOf s = some s.expSeq ∧
    s.total = some 128 ∧ s.rcvd + s.pktSize.toNat ≤ 128 ∧ 128 ≤ s.par.destCap ∧
    s.destRef = some 0 ∧ payloadOf s = some (ramp 0 128) ∧ s.txReady = true ∧ s.script = [] :=
  ⟨{ heldG with par := { base.par with destCap := 128 } }, rfl, rfl, by decide +kernel⟩

/-- Phase C after the marker: all the data is there. -/
def markerC : State :=
  { returnedWith .c .endOfTransfer base with total := some 128, rcvd := 128, pending := [.dispatch] }

theorem witness_TerminationSucceedsWithTotal : markerC.phase = .c ∧ markerC.outcome = .endOfTransfer ∧
    markerC.total = some 128 ∧ markerC.txReady = true := by decide

theorem memoryOk_base : MemoryOk base := ⟨.nil, .nil, .nil, by decide, by decide⟩

theorem memoryOk_markerC : MemoryOk markerC := ⟨.nil, .nil, .nil, by decide, by decide⟩

theorem sessionOk_markerC : SessionOk markerC where
  dest := fun _ => rfl
  multiple := fun _ => rfl
  handshake := fun h => by cases h
  data := fun h => by cases h
  termination := fun _ => ⟨rfl, by decide⟩

theorem paramsOk_base : ParamsOk base.par := ⟨by decide, by decide, by decide⟩

theorem widthsOk_base : WidthsOk base := ⟨paramsOk_base, by decide, by decide, by decide, fun _ h => by cases h⟩

theorem widthsOk_markerC : WidthsOk markerC :=
  ⟨paramsOk_base, by decide, by decide, by decide, fun _ h => by cases h; decide⟩

theorem returned_markerC : returned markerC := ⟨by decide, fun h => by cases h⟩

theorem witness_ExactlyTheSelectedBranchRuns : markerC.rxState = .idle ∧ returned markerC ∧ SessionOk markerC ∧
    isBranch .cEndOfTransfer = true ∧ selected markerC .cEndOfTransfer ∧ ¬ selected markerC .cAbort :=
  ⟨rfl, returned_markerC, sessionOk_markerC, rfl, .inl rfl, by
    rintro (h | ⟨h, _⟩) <;> cases h⟩

theorem witness_SessionEndsComplete : ({ base with phase := .b } : State).phase ≠ .idle ∧
    ({ base with phase := .c } : State).phase = .c ∧ base.phase = .idle ∧
    ({ base with result := some .failure } : State).result = some .failure ∧ base.result = none := by decide

theorem witness_StartBeginsASession : (base.phase = .idle ∧ ({ base with phase := .a } : State).phase ≠ .idle) ∧
    (base.pending = [] ∧ base.handed = []) ∧ [SessionResult.failure] = [] ++ [.failure] ∧
    [SessionResult.failure, .success 128] = [.failure] ++ [.success 128] := by decide

/-- For PowerUpValues: `hw_init` becomes pending by a power cycle and by a call of `reset`, and stays while the environment
moves; inv_beforeHwInit meets the clause under the invariant. -/
theorem witness_PowerUpValues : (∃ t, step { base with script := [.hostReset] } = .next t ∧ .call .hwInit ∈ t.pending) ∧
    (∃ t, step { base with pending := [.call .reset] } = .next t ∧ .call .hwInit ∈ t.pending) ∧
    (∃ t, step { base with pending := [.call .hwInit], script := [.peerSend 0x01#8] } = .next t ∧
      .call .hwInit ∈ t.pending) ∧ base.script = [] :=
  ⟨⟨_, rfl, by decide⟩, ⟨_, rfl, by decide⟩, ⟨_, rfl, by decide⟩, rfl⟩

/-- R197: the top-level loop starts, starts again after a failure, and has left after a success. -/
theorem test_top_level_loop : [[], [.failure], [.failure, .success 128]].map (fun h =>
      field (step { base with handed := h, script := [.hostLoop 7] }) (fun s => (s.phase, s.destRef))) =
    [some (.a, some 7), some (.a, some 7), some (.idle, none)] := by decide +kernel
/-- While a session runs the loop waits in its call. -/
theorem test_top_level_loop_waits : field (step { base with phase := .b, script := [.hostLoop 7] })
    (fun s => (s.phase, s.destRef, s.pending)) = some (.b, none, []) := by decide +kernel

/-! ### States that meet the invariant -/

/-- A machine at rest, with a step. -/
theorem inv_base : Inv base where
  memory := memoryOk_base
  widths := widthsOk_base
  ring := ringOk_base
  fifo := by show 0 ≤ 16; decide
  receiver := ⟨by decide, fun h => absurd h (by decide), fun h => absurd h (by decide)⟩
  session := ⟨fun h => absurd rfl h, fun h => absurd rfl h, fun h => absurd h (by decide), fun h => absurd h (by decide),
    fun h => absurd h (by decide)⟩
  control := .inr ⟨rfl, .rest rfl⟩

/-- Between `rst` and `hw_init()`. -/
theorem inv_beforeHwInit : Inv { base with pending := [.call .hwInit] } where
  memory := memoryOk_base.congr rfl rfl rfl
  widths := widthsOk_base.congr rfl rfl rfl rfl rfl
  ring := ringOk_base.congr rfl rfl rfl rfl
  fifo := inv_base.fifo
  receiver := inv_base.receiver.congr rfl rfl rfl (.inl rfl)
  session := .of_idle rfl
  control := .inr ⟨rfl, .platform rfl rfl rfl⟩

theorem inv_markerC : Inv markerC where
  memory := memoryOk_markerC
  widths := widthsOk_markerC
  ring := ringOk_base.congr rfl rfl rfl rfl
  fifo := by show 0 ≤ 16; decide
  receiver := ⟨by decide, fun h => absurd h (by decide), fun h => absurd h (by decide)⟩
  session := sessionOk_markerC
  control := .inr ⟨rfl, .dispatch returned_markerC⟩

/-- A `receive` in progress in Phase A that the peer cancels. -/
def cancelledA : State := { withRing [0x18] (returnedWith .a .timeout base) with
  rxState := .tag, tolRem := 0, pending := [.rx, .dispatch] }

theorem inv_cancelledA : Inv cancelledA where
  memory := { memoryOk_base with
    ringWf := by show [(0, (0x18#8 : Byte))].Pairwise _; exact List.pairwise_singleton ..
    ringRange := by decide }
  widths := widthsOk_base.congr rfl rfl rfl rfl rfl
  ring := ⟨by decide, by decide, by decide +kernel⟩
  fifo := by show 0 ≤ 16; decide
  receiver := ⟨by decide, fun h => absurd h (by decide), fun h => absurd h (by decide)⟩
  session := ⟨fun _ => rfl, fun _ => rfl, fun _ => ⟨rfl, rfl⟩, fun h => absurd h (by decide), fun h => absurd h (by decide)⟩
  control := .inl ⟨by decide, by decide, rfl⟩

/-- For StepKeepsTheInvariant, InvariantNeverFaults, PhaseMovesAsAllowed and SuccessMeansAllReceived: at rest, inside a
`receive`, and at the step that succeeds; inv_copyingG is one inside a payload copy. -/
theorem witness_Inv : (∃ t, Inv base ∧ step base = .next t) ∧ (∃ t, Inv cancelledA ∧ step cancelledA = .next t ∧
    t.outcome = .abort) ∧
    ∃ t, Inv markerC ∧ step markerC = .next t ∧ t.result ≠ markerC.result ∧ t.result = some (.success 128) := by
  refine ⟨⟨_, inv_base, rfl⟩, ?_, ?_⟩
  · obtain ⟨t, ht, hf⟩ := exists_next (r := step cancelledA) (fun t => t.outcome == .abort) (by decide +kernel)
    exact ⟨t, inv_cancelledA, ht, by simpa using hf⟩
  · obtain ⟨t, ht, hf⟩ := exists_next (r := step markerC)
      (fun t => t.result == some (.success 128)) (by decide +kernel)
    have hr : t.result = some (.success 128) := by simpa using hf
    exact ⟨t, inv_markerC, ht, by rw [hr]; decide, hr⟩

/-- Inside the payload copy of G. -/
def copyingG : State := { heldG with pending := [.copy 5] }

theorem inv_copyingG : Inv copyingG := by
  have hp : packetStored copyingG := fun i hi => by
    have h : ∀ i : Fin 133, (copyingG.pkt.read i.val).isSome = true := by decide +kernel
    exact h ⟨i, hi⟩
  exact
    { memory := ⟨.nil, by show copyingG.pkt.wf; decide +kernel, .nil, by decide, by
        have h : ∀ c ∈ copyingG.pkt, c.1 < 1029 := by decide +kernel
        exact h⟩
      widths := ⟨paramsOk_base, by decide +kernel, by decide +kernel, by decide +kernel, fun t h => by
        cases h; decide⟩
      ring := ringOk_base.congr rfl rfl rfl rfl
      fifo := by show 0 ≤ 16; decide
      receiver := ⟨by decide +kernel, fun h => absurd h (by decide), fun h => absurd h (by decide)⟩
      session := ⟨fun _ => rfl, fun _ => rfl, fun h => absurd h (by decide), fun _ => ⟨_, rfl, by decide +kernel, by decide +kernel⟩,
        fun h => absurd h (by decide)⟩
      control := .inr ⟨rfl, .copy 5 ⟨by decide, fun _ => hp⟩ rfl rfl (by decide +kernel) fun t h => by
        cases h; decide +kernel⟩ }

/-- DEST changes by a byte of the copy, and by the HOST; a branch begins a copy. -/
theorem witness_OnlyAcceptanceWritesDest :
    (∃ t, Inv copyingG ∧ step copyingG = .next t ∧ t.dest ≠ copyingG.dest) ∧
    (∃ t, step { base with script := [.hostWrite 3 0xEE#8] } = .next t ∧ t.dest ≠ base.dest) ∧
    ∃ t, exec .bOkAccept heldG = .next t ∧ t.pending = .copy 0 :: [] ∧ heldG.pending ≠ t.pending := by
  refine ⟨?_, ⟨_, rfl, by decide⟩, ?_⟩
  · obtain ⟨t, ht, hf⟩ := exists_next (r := step copyingG) (fun t => t.dest != copyingG.dest) (by decide +kernel)
    exact ⟨t, inv_copyingG, ht, by simpa using hf⟩
  · obtain ⟨t, ht, hf⟩ := exists_next (r := exec .bOkAccept heldG) (fun t => t.pending == [.copy 0]) (by decide +kernel)
    have hp : t.pending = [.copy 0] := by simpa using hf
    exact ⟨t, ht, hp, by rw [hp]; decide⟩

theorem witness_TransmitTraceOnlyGrows : ∃ t, (∀ es, base.script ≠ .hostReset :: es) ∧
    (∀ ts, ({ base with pending := [.call .ack] } : State).pending ≠ .call .reset :: ts) ∧
    step { base with pending := [.call .ack] } = .next t ∧ t.txlog = [0x06#8] :=
  ⟨_, by simp [base, State.reset], by simp, rfl, by decide +kernel⟩

theorem witness_OperationsLeaveTheEnvironmentAlone : (∃ t, exec .ack base = .next t) ∧ (∃ t, exec .reset base = .next t) ∧
    Instr.ack ≠ .reset := ⟨⟨_, rfl⟩, ⟨_, rfl⟩, by decide⟩

theorem witness_FailingStepsArePrecise : ∃ t, step { returnedWith .b .abort base with pending := [.dispatch] } = .next t ∧
    t.result ≠ none ∧ t.result = some .failure := ⟨_, rfl, by decide, rfl⟩

end Sys2Proof.Tests
end

section
/-! SUPPORT. Rules for what a result can answer: a property of every next state, carried through the conditions of a
branch, the transmit path and the leading-byte position. -/

namespace Sys2Proof.Machine

/-- Every next state that the result answers has the property; a stop answers none. -/
def Answers (P : State → Prop) (r : Result) : Prop := ∀ t, r = .next t → P t

section
variable {P Q : State → Prop} {s t : State}

@[simp] theorem answers_next : Answers P (.next t) ↔ P t :=
  ⟨fun h => h t rfl, fun h u hu => by injection hu with hu; exact hu ▸ h⟩

@[simp] theorem answers_fault (f : Fault) : Answers P (.fault f) := fun _ h => by cases h

theorem Answers.mono {r : Result} (hr : Answers P r) (h : ∀ t, P t → Q t) : Answers Q r := fun t ht => h t (hr t ht)

theorem answers_ite {c : Prop} [Decidable c] {a b : Result} (ha : c → Answers P a) (hb : ¬ c → Answers P b) :
    Answers P (if c then a else b) := by
  split
  · next h => exact ha h
  · next h => exact hb h

theorem answers_onBranch {p : Phase} {o : RecvOutcome} {k : Result}
    (h : s.phase = p → s.outcome = o → Answers P k) : Answers P (onBranch p o s k) := fun t ht => by
  obtain ⟨hp, ho, hk⟩ := onBranch_next ht
  exact h hp ho t hk

theorem answers_onOk {p : Phase} {k : Byte → Result}
    (h : ∀ q, s.phase = p → s.outcome = .ok → seqOf s = some q → Answers P (k q)) : Answers P (onOk p s k) :=
  fun t ht => by
    obtain ⟨hp, ho, q, hq, hk⟩ := onOk_next ht
    exact h q hp ho hq t hk

theorem answers_onHeader {k : List Byte → Result}
    (h : ∀ p, s.phase = .a → s.outcome = .ok → seqOf s = some 0 → payloadOf s = some p → Answers P (k p)) :
    Answers P (onHeader s k) := fun t ht => by
  obtain ⟨hp, ho, hq, p, hpl, hk⟩ := onHeader_next ht
  exact h p hp ho hq hpl t hk

theorem answers_withTotal {k : Nat → Result} (h : ∀ n, s.total = some n → Answers P (k n)) :
    Answers P (withTotal s k) := fun t ht => by
  obtain ⟨n, hn, hk⟩ := withTotal_next ht
  exact h n hn t hk

theorem answers_onlyIf {c : Bool} {k : Result} (h : c = true → Answers P k) : Answers P (onlyIf c k) := fun t ht => by
  obtain ⟨hc, hk⟩ := onlyIf_next ht
  exact h hc t hk

theorem answers_inTagPosition {k : State → State} (h : s.rxState = .tag → P (k s)) :
    Answers P (inTagPosition k s) := fun t ht => by
  obtain ⟨hs, rfl⟩ := inTagPosition_next ht
  exact h hs

/-- A write waits, or sends its byte and goes on (R119). -/
theorem answers_writeThen {b : Byte} {i : Instr} {k : State → Result}
    (hw : P { serviceRx s with pending := .call i :: s.pending })
    (hk : Answers P (k { serviceRx s with txlog := s.txlog ++ [b] })) : Answers P (writeThen b i k s) := by
  cases hr : s.txReady with
  | true => rw [writeThen_ready hr]; exact hk
  | false => rw [writeThen_wait hr]; exact answers_next.2 hw

end

/-! ## Selections -/

/-- The four legal leading bytes, or ILLEGAL (R76, R85). -/
theorem decodeLeading_cases (b : Byte) :
    decodeLeading b = .soh ∨ decodeLeading b = .stx ∨ decodeLeading b = .eot ∨ decodeLeading b = .can ∨
      decodeLeading b = .illegal b := by
  unfold decodeLeading
  split
  · exact .inl rfl
  split
  · exact .inr (.inl rfl)
  split
  · exact .inr (.inr (.inl rfl))
  split
  · exact .inr (.inr (.inr (.inl rfl)))
  · exact .inr (.inr (.inr (.inr rfl)))

/-- The dispatch chooses a BRANCH row. -/
theorem isBranch_of_selectBranch {s : State} {i : Instr} (h : selectBranch s = .ok i) : isBranch i = true := by
  unfold selectBranch at h
  repeat' split at h
  all_goals cases h <;> rfl

/-- The header's selection chooses a BRANCH row. -/
theorem isBranch_of_selectHeader {s : State} {i : Instr} (h : selectHeader s = .ok i) : isBranch i = true := by
  unfold selectHeader at h
  repeat' split at h
  all_goals cases h <;> rfl

theorem isBranch_of_selected {s : State} {i : Instr} (h : selected s i) : isBranch i = true := by
  rcases h with h | ⟨_, h⟩
  · exact isBranch_of_selectBranch h
  · exact isBranch_of_selectHeader h

/-- In Phase A a packet of sequence 0 is the header (R152). -/
theorem selectBranch_of_header {s : State} (hp : s.phase = .a) (ho : s.outcome = .ok) (hq : seqOf s = some 0) :
    selectBranch s = .ok .aOkSeq0 := by
  simp [selectBranch, hp, ho, hq]

/-! ## Sizes -/

theorem pktSize_toNat_cases (z : PktSize) : z.toNat = 128 ∨ z.toNat = 1024 := by
  cases z
  · exact .inl rfl
  · exact .inr rfl

theorem overruns_eq_false {r t : Nat} {z : PktSize} : overruns r z t = false ↔ r + z.toNat ≤ t := by
  simp [overruns]

end Sys2Proof.Machine
end

section
/-! SUPPORT. The invariant without the CORE's position: what it is judged by, and that each shared operation keeps it. -/

namespace Sys2Proof.Machine

/-- The invariant but for the CORE's position. -/
structure DataOk (s : State) : Prop where
  memory : MemoryOk s
  widths : WidthsOk s
  ring : RingOk s
  fifo : FifoOk s
  receiver : ReceiverOk s
  session : SessionOk s

theorem Inv.dataOk {s : State} (h : Inv s) : DataOk s :=
  ⟨h.memory, h.widths, h.ring, h.fifo, h.receiver, h.session⟩

theorem DataOk.inv {s : State} (h : DataOk s) (hc : ControlOk s) : Inv s :=
  ⟨h.memory, h.widths, h.ring, h.fifo, h.receiver, h.session, hc⟩

/-- The state with every field cleared that `DataOk` does not speak of. -/
def State.dataPart (s : State) : State :=
  { s with crc := 0, outcome := .timeout, failCause := .none, tolRem := 0, result := none, txlog := [], line := [],
           txReady := true, script := [], pending := [], ret := .nothing, handed := [], free := 0 }

/-- The state with every field cleared that the CORE's position is not judged by. -/
def State.positionPart (s : State) : State :=
  { State.reset with phase := s.phase, outcome := s.outcome, rxState := s.rxState, pktSize := s.pktSize, pkt := s.pkt,
                     total := s.total, rcvd := s.rcvd, expSeq := s.expSeq, par := s.par, result := s.result,
                     destRef := s.destRef, handed := s.handed }

section
variable {s t : State}

theorem DataOk.congr (h : DataOk s) (he : t.dataPart = s.dataPart) : DataOk t where
  memory := h.memory.congr (congrArg (·.ring) he) (congrArg (·.pkt) he) (congrArg (·.dest) he)
  widths := h.widths.congr (congrArg (·.par) he) (congrArg (·.counter) he) (congrArg (·.deadline) he)
    (congrArg (·.rcvd) he) (congrArg (·.total) he)
  ring := h.ring.congr (congrArg (·.ring) he) (congrArg (·.ringRd) he) (congrArg (·.ringCnt) he)
    (congrArg (·.ringWr) he)
  fifo := by
    have hf : t.hwfifo = s.hwfifo := congrArg (·.hwfifo) he
    have hp : t.par = s.par := congrArg (·.par) he
    unfold FifoOk
    rw [hf, hp]
    exact h.fifo
  receiver := h.receiver.congr (congrArg (·.pktIdx) he) (congrArg (·.pktSize) he) (congrArg (·.pkt) he)
    (.inl (congrArg (·.rxState) he))
  session := h.session.congr (congrArg (·.phase) he) (congrArg (·.destRef) he) (congrArg (·.rcvd) he)
    (congrArg (·.expSeq) he) (congrArg (·.total) he) (congrArg (·.par) he)

theorem SamePosition.of_part (he : t.positionPart = s.positionPart) : SamePosition s t where
  phase := congrArg (·.phase) he
  outcome := congrArg (·.outcome) he
  rxState := congrArg (·.rxState) he
  pktSize := congrArg (·.pktSize) he
  pkt := congrArg (·.pkt) he
  total := congrArg (·.total) he
  rcvd := congrArg (·.rcvd) he
  expSeq := congrArg (·.expSeq) he
  par := congrArg (·.par) he
  result := congrArg (·.result) he
  destRef := congrArg (·.destRef) he
  handed := congrArg (·.handed) he

theorem ControlOk.congr (h : SamePosition s t) (hp : t.pending = s.pending) (hc : ControlOk s) : ControlOk t := by
  rcases hc with ⟨hx, hph, hpd⟩ | ⟨hx, hst⟩
  · exact .inl ⟨h.rxState ▸ hx, h.phase ▸ hph, hp.trans hpd⟩
  · exact .inr ⟨h.rxState.trans hx, hp ▸ hst.congr h⟩

/-- A move that leaves the CORE where it stands. -/
theorem Inv.still (h : Inv s) (hd : DataOk t) (he : t.positionPart = s.positionPart) (hp : t.pending = s.pending) :
    Inv t :=
  hd.inv (h.control.congr (.of_part he) hp)

/-! ## The receive path and the counter -/

theorem serviceRx_dataOk (h : DataOk s) : DataOk (serviceRx s) where
  memory := serviceRx_memoryOk h.memory
  widths := h.widths.congr rfl rfl rfl rfl rfl
  ring := serviceRx_ok h.ring
  fifo := Nat.zero_le _
  receiver := h.receiver.congr rfl rfl rfl (.inl rfl)
  session := h.session.congr rfl rfl rfl rfl rfl rfl

/-- A turn of a read takes a byte, or leaves the ring as the service pass left it; it is never stuck. -/
theorem pollRead_dataOk (h : DataOk s) :
    (∃ b rd cnt, pollRead s = .byte b { serviceRx s with ringRd := rd, ringCnt := cnt } ∧
      DataOk { serviceRx s with ringRd := rd, ringCnt := cnt }) ∨
    pollRead s = .none (serviceRx s) ∨ pollRead s = .waiting (serviceRx s) := by
  have hs := serviceRx_dataOk h
  rcases pollRead_spec h.ring with ⟨b, _, _, u, rfl, hp, hok, _⟩ | ⟨_, _, _, hp⟩
  · exact .inl ⟨b, _, _, hp, hs.memory.congr rfl rfl rfl, hs.widths.congr rfl rfl rfl rfl rfl, hok, hs.fifo,
      hs.receiver.congr rfl rfl rfl (.inl rfl), hs.session.congr rfl rfl rfl rfl rfl rfl⟩
  · rw [hp]
    split
    · exact .inr (.inl rfl)
    · exact .inr (.inr rfl)

theorem discardInput_dataOk (h : DataOk s) : DataOk (discardInput s) where
  memory := h.memory.congr rfl rfl rfl
  widths := h.widths.congr rfl rfl rfl rfl rfl
  ring := ⟨Nat.zero_le _, (BitVec.add_zero _).symm, fun k hk => absurd hk (Nat.not_lt_zero k)⟩
  fifo := Nat.zero_le _
  receiver := h.receiver.congr rfl rfl rfl (.inl rfl)
  session := h.session.congr rfl rfl rfl rfl rfl rfl

theorem platformInit_dataOk (h : DataOk s) : DataOk (platformInit s) where
  memory := h.memory.congr rfl rfl rfl
  widths := h.widths.congr rfl rfl rfl rfl rfl
  ring := ⟨Nat.zero_le _, rfl, fun k hk => absurd hk (Nat.not_lt_zero k)⟩
  fifo := Nat.zero_le _
  receiver := h.receiver.congr rfl rfl rfl (.inl rfl)
  session := h.session.congr rfl rfl rfl rfl rfl rfl

/-- COUNTER and DEADLINE move within their width. -/
theorem DataOk.setTime (h : DataOk s) (now deadline : Nat) :
    DataOk { s with counter := now % 2 ^ s.par.cntW, deadline := deadline % 2 ^ s.par.cntW } where
  memory := h.memory.congr rfl rfl rfl
  widths := ⟨h.widths.params, Nat.mod_lt _ (Nat.two_pow_pos _), Nat.mod_lt _ (Nat.two_pow_pos _), h.widths.rcvd,
    h.widths.total⟩
  ring := h.ring.congr rfl rfl rfl rfl
  fifo := h.fifo
  receiver := h.receiver.congr rfl rfl rfl (.inl rfl)
  session := h.session.congr rfl rfl rfl rfl rfl rfl

theorem DataOk.tick (h : DataOk s) (n : Nat) : DataOk { s with counter := (s.counter + n) % 2 ^ s.par.cntW } := by
  have := h.setTime (s.counter + n) s.deadline
  rwa [Nat.mod_eq_of_lt h.widths.deadline] at this

theorem beginRead_dataOk (h : DataOk s) : DataOk (beginRead s) := by
  have := h.setTime s.counter (s.counter + s.par.readTimeoutTicks)
  rwa [Nat.mod_eq_of_lt h.widths.counter] at this

/-- An arrival keeps HWFIFO within its depth (R40, D8). -/
theorem rxArrive_dataOk (h : DataOk s) (lost : Nat) : DataOk (rxArrive lost s) := by
  have keeps : ∀ line fifo, fifo.length ≤ fifoDepth s.par → DataOk { s with line := line, hwfifo := fifo } :=
    fun _ _ hf => ⟨h.memory.congr rfl rfl rfl, h.widths.congr rfl rfl rfl rfl rfl, h.ring.congr rfl rfl rfl rfl, hf,
      h.receiver.congr rfl rfl rfl (.inl rfl), h.session.congr rfl rfl rfl rfl rfl rfl⟩
  have hf : s.hwfifo.length ≤ fifoDepth s.par := h.fifo
  unfold rxArrive
  split
  · exact h
  split
  · next hlt => exact keeps _ _ (by simpa using hlt)
  · refine keeps _ _ ?_
    rw [List.length_eraseIdx_of_lt (by simp)]
    simpa using hf

/-! ## The Packet Receiver -/

/-- A call that has ended, or one that waits for its leading byte, asks nothing of PKT_IDX but its range. -/
theorem DataOk.setReceiver (h : DataOk s) {x : RxState} (hx : x = .idle ∨ x = .tag) (o : RecvOutcome)
    (tol : BitVec 2) :
    DataOk { s with outcome := o, rxState := x, tolRem := tol } where
  memory := h.memory.congr rfl rfl rfl
  widths := h.widths.congr rfl rfl rfl rfl rfl
  ring := h.ring.congr rfl rfl rfl rfl
  fifo := h.fifo
  receiver := ⟨h.receiver.index, fun hb => absurd hb (hx.elim (· ▸ nofun) (· ▸ nofun)),
    fun hb => absurd hb (hx.elim (· ▸ nofun) (· ▸ nofun))⟩
  session := h.session.congr rfl rfl rfl rfl rfl rfl

theorem finishReceive_dataOk (h : DataOk s) (o : RecvOutcome) : DataOk (finishReceive o s) :=
  h.setReceiver (.inl rfl) o s.tolRem

theorem beginReceive_dataOk (h : DataOk s) (tol : BitVec 2) : DataOk (beginReceive tol s) :=
  (beginRead_dataOk (h.setReceiver (.inr rfl) s.outcome tol)).congr rfl

/-- A start tag is stored and the body begins (R132, R133). -/
theorem openBody_dataOk (h : DataOk s) (size : PktSize) : DataOk (openBody size s) := by
  have hle : (1 : BitVec 11).toNat ≤ Config.pktBufLen := by decide
  have hopen : DataOk { s with pkt := s.pkt.write 0 size.tag, pktSize := size, pktIdx := 1, rxState := .body } :=
    { memory := ⟨h.memory.ringWf, write_wf h.memory.pktWf _ _, h.memory.destWf, h.memory.ringRange,
        write_range h.memory.pktRange (by decide) _⟩
      widths := h.widths.congr rfl rfl rfl rfl rfl
      ring := h.ring.congr rfl rfl rfl rfl
      fifo := h.fifo
      receiver := ⟨hle, fun _ => ⟨Nat.le_refl 1, Nat.le_add_left 1 (size.toNat + 3),
        holds_write_next (fun i hi => absurd hi (Nat.not_lt_zero i)) _⟩, nofun⟩
      session := h.session.congr rfl rfl rfl rfl rfl rfl }
  exact (beginRead_dataOk hopen).congr rfl

/-- A body byte extends the stored run; after the last one the whole packet is stored (R131, R136). -/
theorem storeBody_dataOk (h : DataOk s) (hx : s.rxState = .body) (b : Byte) : DataOk (storeBody b s) := by
  obtain ⟨hpos, hle, hrun⟩ := h.receiver.body hx
  have hextra : Config.bodyExtra = 4 := rfl
  have hlen : Config.pktBufLen = 1029 := rfl
  have hsize := pktSize_toNat_cases s.pktSize
  have hidx : (s.pktIdx + 1).toNat = s.pktIdx.toNat + 1 := by
    rw [BitVec.toNat_add]
    simp
    omega
  have hrun' : (s.pkt.write s.pktIdx.toNat b).holds (s.pktIdx + 1).toNat := hidx ▸ holds_write_next hrun b
  have hmem : MemoryOk (storeBody b s) := storeBody_memoryOk h.memory (by omega) b
  unfold storeBody at hmem ⊢
  dsimp only at hmem ⊢
  split at hmem
  · next hlt =>
    rw [if_pos hlt]
    refine DataOk.congr (beginRead_dataOk (s := { s with pkt := s.pkt.write s.pktIdx.toNat b, pktIdx := s.pktIdx + 1 })
      ⟨hmem.congr rfl rfl rfl, h.widths.congr rfl rfl rfl rfl rfl, h.ring.congr rfl rfl rfl rfl, h.fifo,
        ⟨?_, fun _ => ⟨?_, ?_, hrun'⟩, fun hc => ?_⟩, h.session.congr rfl rfl rfl rfl rfl rfl⟩) rfl
    · show (s.pktIdx + 1).toNat ≤ _; omega
    · show 1 ≤ (s.pktIdx + 1).toNat; omega
    · show (s.pktIdx + 1).toNat ≤ s.pktSize.toNat + _; omega
    · exact absurd (hx.symm.trans hc) nofun
  · next hge =>
    rw [if_neg hge]
    have hend : s.pktIdx.toNat + 1 = s.pktSize.toNat + Config.bodyExtra + 1 := by omega
    refine ⟨hmem, h.widths.congr rfl rfl rfl rfl rfl, h.ring.congr rfl rfl rfl rfl, h.fifo,
      ⟨?_, nofun, fun _ => ⟨hidx.trans hend, ?_⟩⟩, h.session.congr rfl rfl rfl rfl rfl rfl⟩
    · show (s.pktIdx + 1).toNat ≤ _; omega
    · show (s.pkt.write s.pktIdx.toNat b).holds (s.pktSize.toNat + Config.bodyExtra + 1)
      rw [← hend, ← hidx]; exact hrun'

/-! ## The session -/

theorem DataOk.setSession (h : DataOk s) {ph : Phase} {r : Nat} {n : Option Nat} {seq : Byte} {d : Option Nat}
    (hr : r < 2 ^ s.par.lenW) (hn : ∀ t, n = some t → t < 2 ^ s.par.lenW)
    (hs : SessionOk { s with phase := ph, rcvd := r, total := n, expSeq := seq, destRef := d }) :
    DataOk { s with phase := ph, rcvd := r, total := n, expSeq := seq, destRef := d } where
  memory := h.memory.congr rfl rfl rfl
  widths := ⟨h.widths.params, h.widths.counter, h.widths.deadline, hr, hn⟩
  ring := h.ring.congr rfl rfl rfl rfl
  fifo := h.fifo
  receiver := h.receiver.congr rfl rfl rfl (.inl rfl)
  session := hs

/-- Outside a session its registers are free. -/
theorem DataOk.endSession (h : DataOk s) : DataOk { s with phase := .idle } :=
  h.setSession h.widths.rcvd h.widths.total (.of_idle rfl)

theorem failSession_dataOk (h : DataOk s) (c : FailCause) : DataOk (failSession c s) := h.endSession.congr rfl

theorem succeedSession_dataOk (h : DataOk s) (n : Nat) : DataOk (succeedSession n s) := h.endSession.congr rfl

/-- A session that starts has received nothing (R195). -/
theorem startSession_dataOk (h : DataOk s) (dest : Nat) : DataOk (startSession dest s) where
  memory := h.memory.congr rfl rfl rfl
  widths := ⟨h.widths.params, h.widths.counter, h.widths.deadline, Nat.two_pow_pos _, nofun⟩
  ring := h.ring.congr rfl rfl rfl rfl
  fifo := h.fifo
  receiver := ⟨by
      have := (Config.freePktIdx s.free).isLt
      show (BitVec.ofNat 11 (Config.freePktIdx s.free).val).toNat ≤ 1029
      rw [BitVec.toNat_ofNat]
      omega,
    nofun, nofun⟩
  session := ⟨fun _ => rfl, fun _ => rfl, fun _ => ⟨rfl, rfl⟩, nofun, nofun⟩

/-- Power-up empties the buffers; the HOST's memory and the parameters stay (R192). -/
theorem powerUp_dataOk (h : DataOk s) : DataOk (powerUp s) where
  memory := { reset_memoryOk with destWf := h.memory.destWf }
  widths := ⟨h.widths.params, Nat.two_pow_pos _, Nat.two_pow_pos _, Nat.two_pow_pos _, nofun⟩
  ring := ⟨Nat.zero_le _, rfl, fun k hk => absurd hk (Nat.not_lt_zero k)⟩
  fifo := Nat.zero_le _
  receiver := ⟨Nat.zero_le _, nofun, nofun⟩
  session := .of_idle rfl

/-- A total that fits is a value of its width. -/
theorem DataOk.lt_lenW (h : DataOk s) {n : Nat} (hn : n ≤ s.par.destCap) : n < 2 ^ s.par.lenW :=
  Nat.lt_of_le_of_lt hn h.widths.params.destCap

/-- The HOST's memory may take a byte. -/
theorem DataOk.writeDest (h : DataOk s) (a : Nat) (b : Byte) : DataOk { s with dest := s.dest.write a b } where
  memory := ⟨h.memory.ringWf, h.memory.pktWf, write_wf h.memory.destWf a b, h.memory.ringRange, h.memory.pktRange⟩
  widths := h.widths.congr rfl rfl rfl rfl rfl
  ring := h.ring.congr rfl rfl rfl rfl
  fifo := h.fifo
  receiver := h.receiver.congr rfl rfl rfl (.inl rfl)
  session := h.session.congr rfl rfl rfl rfl rfl rfl

/-- Phase A may set TOTAL (R154). -/
theorem DataOk.setTotal (h : DataOk s) (hp : s.phase = .a) {n : Nat} (hn : n ≤ s.par.destCap) :
    DataOk { s with total := some n } :=
  h.setSession h.widths.rcvd (fun t ht => by injection ht with ht; exact ht ▸ h.lt_lenW hn)
    ⟨h.session.dest, h.session.multiple, h.session.handshake, fun hb => absurd (hp.symm.trans hb) nofun,
      fun hc => absurd (hp.symm.trans hc) nofun⟩

/-- Phase B may advance EXP_SEQ (R167). -/
theorem beginCopy_dataOk (h : DataOk s) (hp : s.phase = .b) : DataOk (beginCopy s) :=
  DataOk.congr (h.setSession (seq := s.expSeq + 1) h.widths.rcvd h.widths.total
    ⟨h.session.dest, h.session.multiple, fun ha => absurd (hp.symm.trans ha) nofun, h.session.data,
      h.session.termination⟩) rfl

/-- With a TOTAL that fits, Phase A leads to Phase B (R154). -/
theorem DataOk.enterB (h : DataOk s) (hp : s.phase ≠ .idle) (hlen : lengthsOk s) : DataOk { s with phase := .b } :=
  h.setSession h.widths.rcvd h.widths.total
    ⟨fun _ => h.session.dest hp, fun _ => h.session.multiple hp, nofun, fun _ => hlen, nofun⟩

/-- With all bytes received, Phase B leads to Phase C (R163, R182 (e)). -/
theorem DataOk.enterC (h : DataOk s) (hp : s.phase = .b) (htot : s.total = some s.rcvd) :
    DataOk { s with phase := .c } := by
  have hp0 : s.phase ≠ .idle := by simp [hp]
  obtain ⟨n, _, hle, hcap⟩ := h.session.data hp
  exact h.setSession h.widths.rcvd h.widths.total
    ⟨fun _ => h.session.dest hp0, fun _ => h.session.multiple hp0, nofun, nofun,
      fun _ => ⟨htot, Nat.le_trans hle hcap⟩⟩

/-- Phase B may count an accepted packet that fits TOTAL (R167, R182 (a), (b)). -/
theorem DataOk.advanceRcvd (h : DataOk s) (hp : s.phase = .b)
    (hfit : ∀ t, s.total = some t → s.rcvd + s.pktSize.toNat ≤ t) :
    DataOk { s with rcvd := s.rcvd + s.pktSize.toNat } := by
  obtain ⟨n, hn, _, hcap⟩ := h.session.data hp
  have hle := hfit n hn
  have hmul : s.rcvd % 128 = 0 := h.session.multiple (by simp [hp])
  refine h.setSession (h.lt_lenW (Nat.le_trans hle hcap)) h.widths.total
    ⟨h.session.dest, fun _ => ?_, fun ha => absurd (hp.symm.trans ha) nofun, fun _ => ⟨n, hn, hle, hcap⟩,
      fun hc => absurd (hp.symm.trans hc) nofun⟩
  show (s.rcvd + s.pktSize.toNat) % 128 = 0
  rcases pktSize_toNat_cases s.pktSize with hz | hz <;> omega

end

end Sys2Proof.Machine
end

section
/-! SUPPORT. The positions of the CORE: each task that can stand next answers only states that meet the invariant. -/

namespace Sys2Proof.Machine

section
variable {s t : State}

/-- Outside any `receive`, at a position. -/
theorem DataOk.inv_of_standing (h : DataOk s) (he : t.dataPart = s.dataPart) (hx : t.rxState = .idle) {ts : List Task}
    (ht : t.pending = ts) (hs : Standing t ts) : Inv t :=
  (h.congr he).inv (.inr ⟨hx, ht ▸ hs⟩)

/-- Outside any `receive`, at a position that another state is at, too. -/
theorem DataOk.inv_of_position (h : DataOk s) (he : t.dataPart = s.dataPart) {u : State} (hx : u.rxState = .idle)
    {ts : List Task} (ht : t.pending = ts) (hs : Standing u ts) (hu : t.positionPart = u.positionPart) : Inv t :=
  h.inv_of_standing he ((SamePosition.of_part hu).rxState.trans hx) ht (hs.congr (.of_part hu))

/-- Inside a `receive`, whose dispatch stood next. -/
theorem DataOk.inv_of_receiving (h : DataOk s) (he : t.dataPart = s.dataPart) (hx : t.rxState ≠ .idle)
    (hp : t.phase ≠ .idle) {u : State} (hpd : u.pending = [.dispatch]) (ht : t.pending = .rx :: u.pending) : Inv t :=
  (h.congr he).inv (.inl ⟨hx, hp, ht.trans (congrArg _ hpd)⟩)

/-! ## The end of a session -/

theorem failSession_inv (h : DataOk s) (hx : s.rxState = .idle) (c : FailCause) : Inv (failSession c s) :=
  (failSession_dataOk h c).inv_of_standing rfl hx rfl (.handOver rfl rfl)

theorem succeedSession_inv (h : DataOk s) (hx : s.rxState = .idle) (n : Nat) : Inv (succeedSession n s) :=
  (succeedSession_dataOk h n).inv_of_standing rfl hx rfl (.handOver rfl rfl)

theorem powerUp_inv (h : DataOk s) : Inv (powerUp s) :=
  (powerUp_dataOk h).inv_of_standing rfl rfl rfl (.platform rfl rfl rfl)

theorem startSession_inv (h : DataOk s) (hpd : s.pending = []) (dest : Nat) :
    Inv ((startSession dest s).push [.call .phaseAAttempt]) :=
  (startSession_dataOk h dest).inv_of_standing rfl rfl (congrArg (Task.call .phaseAAttempt :: ·) hpd) (.attempt rfl)

/-! ## Operations that leave the session alone -/

/-- Calls that touch neither the receiver nor the session may stand before a position. -/
theorem Standing.quietCalls {ts : List Task} (hp : s.phase ≠ .idle) (hs : Standing s ts) (is : List Instr)
    (hq : ∀ i ∈ is, isQuiet i = true) : Standing s (is.map .call ++ ts) := by
  induction is with
  | nil => exact hs
  | cons i is ih =>
    exact .quiet i _ (hq i List.mem_cons_self) hp (ih fun j hj => hq j (List.mem_cons_of_mem _ hj))

/-- What such an operation sends and services leaves the CORE's position as it is. -/
theorem serviced_inv (h : DataOk s) (hx : s.rxState = .idle) {ts : List Task} (hs : Standing s ts) (log : List Byte) :
    Inv { serviceRx s with txlog := log, pending := ts } :=
  (serviceRx_dataOk h).inv_of_position rfl hx rfl hs rfl

/-- Calls put before the pending ones. -/
theorem pushed_inv (h : DataOk s) (hx : s.rxState = .idle) {ps : List Task} (hpd : s.pending = ps) (ts : List Task)
    (hs : Standing s (ts ++ ps)) : Inv (s.push ts) :=
  h.inv_of_position rfl hx (congrArg (ts ++ ·) hpd) hs rfl

theorem write_inv (h : DataOk s) (hx : s.rxState = .idle) (hp : s.phase ≠ .idle) (hs : Standing s s.pending)
    (b : Byte) {i : Instr} (hq : isQuiet i = true) : Answers Inv (writeThen b i .next s) :=
  answers_writeThen (serviced_inv h hx (.quiet i _ hq hp hs) s.txlog)
    (answers_next.2 (serviced_inv h hx hs (s.txlog ++ [b])))

theorem quiet_inv (h : DataOk s) (hx : s.rxState = .idle) (hp : s.phase ≠ .idle) (hs : Standing s s.pending)
    {i : Instr} (hq : isQuiet i = true) : Answers Inv (exec i s) := by
  have calls : ∀ is : List Instr, (∀ j ∈ is, isQuiet j = true) → Inv (s.push (is.map .call)) :=
    fun is hi => pushed_inv h hx rfl _ (hs.quietCalls hp is hi)
  match i, hq with
  | .crq, hq => exact write_inv h hx hp hs _ hq
  | .canTx, hq => exact write_inv h hx hp hs _ hq
  | .bs, hq => exact write_inv h hx hp hs _ hq
  | .writeByte b, hq => exact write_inv h hx hp hs b hq
  | .abortSeq, _ =>
    exact answers_next.2 (calls (List.replicate 4 Instr.canTx ++ List.replicate 4 Instr.bs) (by decide))
  | .abortProcedure, _ => exact answers_next.2 (calls [.abortSeq, .discardInput] (by decide))
  | .report c, _ =>
    have := calls ((diagTextOf s.par c).map .writeByte) (by simp [isQuiet])
    rw [List.map_map] at this
    exact answers_next.2 this
  | .discardInput, _ =>
    exact answers_next.2 ((discardInput_dataOk h).inv_of_position rfl hx rfl hs rfl)

/-! ## The Packet Receiver -/

/-- A `receive` that ends leaves the dispatch to run; a packet it reports is stored. -/
theorem finishReceive_inv (h : DataOk s) (hp : s.phase ≠ .idle) (hpd : s.pending = [.dispatch]) {o : RecvOutcome}
    (ho : o = .ok → packetStored s) : Inv (finishReceive o s) :=
  (finishReceive_dataOk h o).inv_of_standing rfl rfl hpd (.dispatch ⟨hp, ho⟩)

theorem beginReceive_inv (h : DataOk s) (hp : s.phase ≠ .idle) (hpd : s.pending = [.dispatch]) (tol : BitVec 2) :
    Inv (beginReceive tol s) :=
  (beginReceive_dataOk h tol).inv_of_receiving rfl nofun hp hpd rfl

/-- A leading byte opens a body, waits for a fresh one, or ends the call without a packet (R132 to R137). -/
theorem leading_inv (h : DataOk s) (hp : s.phase ≠ .idle) (hpd : s.pending = [.dispatch]) (b : Byte) :
    Answers Inv (exec (decodeLeading b) s) := by
  have opens : ∀ size, Answers Inv (inTagPosition (openBody size) s) := fun size =>
    answers_inTagPosition fun _ => (openBody_dataOk h size).inv_of_receiving rfl nofun hp hpd rfl
  have ends : ∀ o, o ≠ .ok → Inv (finishReceive o s) := fun o ho => finishReceive_inv h hp hpd (absurd · ho)
  rcases decodeLeading_cases b with he | he | he | he | he <;> rw [he]
  · exact opens .short
  · exact opens .long
  · exact answers_inTagPosition fun _ => ends .endOfTransfer nofun
  · refine answers_inTagPosition fun htag => ?_
    unfold cancelByte
    split
    · exact ends .abort nofun
    · have hread := beginRead_dataOk (h.setReceiver (.inr htag) s.outcome (s.tolRem - 1))
      exact hread.inv_of_receiving rfl (by simp [htag]) hp hpd rfl
  · exact answers_inTagPosition fun _ => ends .protocolError nofun

theorem rxTag_inv (h : DataOk s) (hx : s.rxState = .tag) (hp : s.phase ≠ .idle) (hpd : s.pending = [.dispatch]) :
    Answers Inv (rxStep s) := by
  rcases pollRead_dataOk h with ⟨b, rd, cnt, hpoll, hd⟩ | hpoll | hpoll
  · rw [rxTag_byte hx hpoll]
    exact leading_inv hd hp hpd b
  · rw [rxTag_none hx hpoll]
    exact answers_next.2 (finishReceive_inv (serviceRx_dataOk h) hp hpd nofun)
  · rw [rxTag_waiting hx hpoll]
    exact answers_next.2 ((serviceRx_dataOk h).inv_of_receiving rfl (by simp [hx]) hp
      hpd rfl)

theorem storeBody_inv (h : DataOk s) (hx : s.rxState = .body) (hp : s.phase ≠ .idle) (hpd : s.pending = [.dispatch])
    (b : Byte) : Inv (storeBody b s) := by
  have hd := storeBody_dataOk h hx b
  unfold storeBody at hd ⊢
  dsimp only at hd ⊢
  split at hd
  · next hlt =>
    rw [if_pos hlt]
    exact hd.inv_of_receiving rfl (by simp [hx]) hp hpd rfl
  · next hge =>
    rw [if_neg hge]
    exact hd.inv_of_receiving rfl nofun hp hpd rfl

theorem rxBody_inv (h : DataOk s) (hx : s.rxState = .body) (hp : s.phase ≠ .idle) (hpd : s.pending = [.dispatch]) :
    Answers Inv (rxStep s) := by
  obtain ⟨_, hi, _⟩ := h.receiver.body hx
  rcases pollRead_dataOk h with ⟨b, rd, cnt, hpoll, hd⟩ | hpoll | hpoll
  · rw [rxBody_byte hx hi hpoll]
    exact answers_next.2 (storeBody_inv hd hx hp hpd b)
  · rw [rxBody_none hx hi hpoll]
    exact answers_next.2 (finishReceive_inv (serviceRx_dataOk h) hp hpd nofun)
  · rw [rxBody_waiting hx hi hpoll]
    exact answers_next.2 ((serviceRx_dataOk h).inv_of_receiving rfl (by simp [hx]) hp
      hpd rfl)

theorem rxCheck_inv (h : DataOk s) (hx : s.rxState = .check) (hp : s.phase ≠ .idle) (hpd : s.pending = [.dispatch]) :
    Answers Inv (rxStep s) := by
  obtain ⟨_, hstored⟩ := h.receiver.check hx
  obtain ⟨body, hbody, _⟩ := readAll_isSome (m := s.pkt) (s.pktSize.toNat + Config.bodyExtra) 1 fun i hi =>
    hstored (1 + i) (by omega)
  rw [rxCheck_eq hx hbody, answers_next]
  split
  · exact finishReceive_inv (s := { s with crc := crc16 body }) (h.congr rfl) hp hpd fun _ => hstored
  · exact finishReceive_inv h hp hpd fun _ => hstored

/-- A `receive` in progress goes on, or ends with its dispatch pending (R131). -/
theorem rxStep_inv (h : DataOk s) (hx : s.rxState ≠ .idle) (hp : s.phase ≠ .idle) (hpd : s.pending = [.dispatch]) :
    Answers Inv (rxStep s) := by
  cases hr : s.rxState with
  | idle => exact absurd hr hx
  | tag => exact rxTag_inv h hr hp hpd
  | body => exact rxBody_inv h hr hp hpd
  | check => exact rxCheck_inv h hr hp hpd

/-- The step of phase B or C begins its `receive` (R162, R171). -/
theorem receiveStep_inv (h : DataOk s) (hpd : s.pending = []) {p : Phase} (hp : p ≠ .idle) (tol : BitVec 2) :
    Answers Inv (receiveStep p tol s) :=
  answers_ite (fun hph => answers_ite (fun _ => answers_next.2 <|
      beginReceive_inv (s := s.push [.dispatch]) (h.congr rfl) (by simp [hph, hp]) (by simp [hpd]) tol)
    fun _ => answers_fault _) fun _ => answers_fault _

end

end Sys2Proof.Machine
end

section
/-! SUPPORT. The branches keep the invariant, and with them every step (R89, R152 to R177, R182). -/

namespace Sys2Proof.Machine

/-! ## The 22 branches -/

section
variable {s : State}

/-- A branch whose write waits stands next again (R119, R120). -/
theorem waiting_inv (h : DataOk s) (hx : s.rxState = .idle) (hpd : s.pending = []) (hr : returned s) {i : Instr}
    (hs : selected s i) : Inv { serviceRx s with pending := .call i :: s.pending } :=
  serviced_inv h hx (hpd ▸ .branch i hr hs) s.txlog

/-- A branch's write: it waits, or what follows the byte meets the invariant. -/
theorem branchWrite_inv (h : DataOk s) (hx : s.rxState = .idle) (hpd : s.pending = []) (hr : returned s) {i : Instr}
    (hs : selected s i) {b : Byte} {k : State → Result}
    (hk : ∀ log, DataOk { serviceRx s with txlog := log } → Answers Inv (k { serviceRx s with txlog := log })) :
    Answers Inv (writeThen b i k s) :=
  answers_writeThen (waiting_inv h hx hpd hr hs) (hk _ ((serviceRx_dataOk h).congr rfl))

/-- After the byte a branch leaves calls pending. -/
theorem branchWrite_push_inv (h : DataOk s) (hx : s.rxState = .idle) (hpd : s.pending = []) (hr : returned s)
    {i : Instr} (hs : selected s i) {b : Byte} {ts : List Task} (hts : Standing s ts) :
    Answers Inv (writeThen b i (fun s' => .next (s'.push ts)) s) :=
  branchWrite_inv h hx hpd hr hs fun _ hd =>
    answers_next.2 (hd.inv_of_position rfl hx (by simp [hpd]) hts rfl)

/-- The abort procedure, then the failure (R157 and the other callers of R178). -/
theorem abortAndFail_inv (h : DataOk s) (hx : s.rxState = .idle) (hpd : s.pending = []) (hp : s.phase ≠ .idle)
    (c : FailCause) : Answers Inv (abortAndFail c s) :=
  answers_next.2 (pushed_inv h hx hpd _ (.quiet _ _ rfl hp (.failing c hp)))

/-- The header is parsed, then its branch is selected (R152). -/
theorem aOkSeq0_inv (h : DataOk s) (hx : s.rxState = .idle) (hpd : s.pending = []) (hr : returned s) :
    Answers Inv (exec .aOkSeq0 s) :=
  answers_onHeader fun p hp ho hq hpl => by
    obtain ⟨_, p', hp', hlen⟩ := packet_reads (by simp [packetHeld, ho, hx]) (hr.2 ho)
    have hn : s.pktSize.toNat ≤ p.length := by
      rw [hpl] at hp'
      injection hp' with hp'
      rw [hp', hlen]
    exact answers_next.2 (pushed_inv h hx hpd _ (.parse p _ hr (selectBranch_of_header hp ho hq) hn))

/-- TOTAL is set, and Phase B is entered with `RCVD <= TOTAL <= DEST_CAP` (R154, R182 (a)). -/
theorem aHeaderAccepted_inv (h : DataOk s) (hx : s.rxState = .idle) (hpd : s.pending = []) (hr : returned s)
    (hs : selected s .aHeaderAccepted) : Answers Inv (exec .aHeaderAccepted s) :=
  answers_onHeader fun p hp ho hq hpl => by
    split
    · exact answers_fault _
    next n hn =>
    refine answers_onlyIf fun hfit => ?_
    have hcap : n ≤ s.par.destCap := of_decide_eq_true hfit
    obtain ⟨hrcvd, _⟩ := h.session.handshake hp
    have hsel : selected { s with total := some n } .aHeaderAccepted := by
      refine .inr ⟨selectBranch_of_header hp ho hq, ?_⟩
      rcases hs with hs | ⟨_, hs⟩
      · rw [selectBranch_of_header hp ho hq] at hs
        cases hs
      · exact hs
    have hlen : lengthsOk { s with total := some n } := ⟨n, rfl, by simp [hrcvd], hcap⟩
    exact branchWrite_push_inv (s := { s with total := some n }) (h.setTotal hp hcap) hx hpd hr hsel
      (.quiet _ _ rfl hr.1 (.enterB hp hlen))

/-- Phase C is entered with all bytes received (R163, R182 (e)). -/
theorem bEotComplete_inv (h : DataOk s) (hx : s.rxState = .idle) (hpd : s.pending = []) (hr : returned s)
    (hs : selected s .bEotComplete) : Answers Inv (exec .bEotComplete s) :=
  answers_onBranch fun hp _ => answers_withTotal fun t ht => answers_onlyIf fun hall => by
    obtain ⟨t', ht', hle, _⟩ := h.session.data hp
    have heq : s.total = some s.rcvd := by
      have hge : t ≤ s.rcvd := of_decide_eq_true hall
      rw [ht] at ht' ⊢
      injection ht' with ht'
      rw [Nat.le_antisymm hge (ht' ▸ hle)]
    exact branchWrite_push_inv h hx hpd hr hs (.quiet _ _ rfl hr.1 (.enterC hp heq))

/-- The copy begins where the packet fits TOTAL (R167). -/
theorem bOkAccept_inv (h : DataOk s) (hx : s.rxState = .idle) (hpd : s.pending = []) (hr : returned s)
    (hs : selected s .bOkAccept) : Answers Inv (exec .bOkAccept s) :=
  answers_onOk fun q hp ho _ => answers_withTotal fun t ht => answers_onlyIf fun hc => by
    have hfit : s.rcvd + s.pktSize.toNat ≤ t := by
      simp only [Bool.and_eq_true, Bool.not_eq_true', overruns_eq_false] at hc
      exact hc.2
    have hpos : 0 < s.pktSize.toNat := by rcases pktSize_toNat_cases s.pktSize with hz | hz <;> omega
    refine branchWrite_inv h hx hpd hr hs fun _ hd => answers_next.2 ?_
    refine (beginCopy_dataOk hd hp).inv_of_standing rfl hx (by simp [hpd]) (.copy 0 hr hp ho hpos fun u hu => ?_)
    rw [show s.total = some u from hu] at ht
    injection ht with ht
    exact ht ▸ hfit

/-- A branch that is selected answers only states that meet the invariant. -/
theorem branch_inv (h : DataOk s) (hx : s.rxState = .idle) (hpd : s.pending = []) (hr : returned s) {i : Instr}
    (hs : selected s i) : Answers Inv (exec i s) := by
  have aborts := abortAndFail_inv h hx hpd hr.1
  have fails : ∀ c, Answers Inv (.next (failSession c s)) := fun c => answers_next.2 (failSession_inv h hx c)
  match i, isBranch_of_selected hs with
  | .aOkSeq0, _ => exact aOkSeq0_inv h hx hpd hr
  | .aHeaderAccepted, _ => exact aHeaderAccepted_inv h hx hpd hr hs
  | .aHeaderMalformed, _ => exact answers_onHeader fun _ _ _ _ _ => answers_onlyIf fun _ => aborts _
  | .aLenExceedsCap, _ =>
    refine answers_onHeader fun _ _ _ _ _ => ?_
    split
    · exact answers_fault _
    · exact answers_onlyIf fun _ => aborts _
  | .aProtocolError, _ => exact answers_onBranch fun _ _ => aborts _
  | .aAbort, _ =>
    exact answers_onBranch fun _ _ => branchWrite_inv h hx hpd hr hs fun _ hd =>
      answers_next.2 (failSession_inv hd hx _)
  | .aOkSeqNonzero, _ =>
    exact answers_onOk fun _ hp _ _ => answers_onlyIf fun _ => branchWrite_push_inv h hx hpd hr hs (.attempt hp)
  | .aEndOfTransfer, _ => exact answers_onBranch fun _ _ => aborts _
  | .aTimeout, _ =>
    exact answers_onBranch fun hp _ => answers_next.2 (pushed_inv h hx hpd _ (.attempt hp))
  | .bEotComplete, _ => exact bEotComplete_inv h hx hpd hr hs
  | .bEotShort, _ =>
    exact answers_onBranch fun _ _ => answers_withTotal fun _ _ => answers_onlyIf fun _ =>
      branchWrite_push_inv h hx hpd hr hs (Standing.quietCalls hr.1 (.failing _ hr.1)
        [.crq, .abortProcedure, .report .dataShort] (by decide))
  | .bOkWrongSeq, _ =>
    exact answers_onOk fun _ hp _ _ => answers_onlyIf fun _ =>
      branchWrite_push_inv h hx hpd hr hs (.quiet _ _ rfl hr.1 (.dataStep hp))
  | .bOkOverrun, _ =>
    exact answers_onOk fun _ _ _ _ => answers_withTotal fun _ _ => answers_onlyIf fun _ => aborts _
  | .bOkAccept, _ => exact bOkAccept_inv h hx hpd hr hs
  | .bProtocolError, _ => exact answers_onBranch fun _ _ => aborts _
  | .bAbort, _ => exact answers_onBranch fun _ _ => fails _
  | .bTimeout, _ => exact answers_onBranch fun _ _ => aborts _
  | .cEndOfTransfer, _ =>
    exact answers_onBranch fun _ _ => answers_withTotal fun t _ =>
      branchWrite_inv h hx hpd hr hs fun _ hd => answers_next.2 (succeedSession_inv hd hx t)
  | .cOk, _ => exact answers_onBranch fun _ _ => answers_ite (fun _ => aborts _) (fun _ => fails _)
  | .cProtocolError, _ => exact answers_onBranch fun _ _ => aborts _
  | .cTimeout, _ => exact answers_onBranch fun _ _ => aborts _
  | .cAbort, _ => exact answers_onBranch fun _ _ => fails _

/-- What a selection chose runs as a branch. -/
theorem runSelected_inv (h : DataOk s) (hx : s.rxState = .idle) (hpd : s.pending = []) (hr : returned s)
    {r : Except Fault Instr} (hs : ∀ i, r = .ok i → selected s i) : Answers Inv (runSelected r s) := by
  cases r with
  | error f => exact answers_fault f
  | ok i => exact branch_inv h hx hpd hr (hs i rfl)

/-! ## The payload copy -/

/-- A byte of the copy: the next one is to come, or RCVD has advanced within TOTAL (R167, R182 (a), (b)). -/
theorem copyByte_inv (h : DataOk s) (hx : s.rxState = .idle) (hpd : s.pending = []) {i : Nat}
    (hs : Standing s [.copy i]) : Answers Inv (copyByte i s) := fun t ht => by
  obtain ⟨b, base, _, _, _, rfl⟩ := copyByte_next ht
  cases hs with
  | copy _ hr hp ho hi hfit =>
  have hd := h.writeDest (base + (s.rcvd + i)) b
  by_cases hmore : i + 1 < s.pktSize.toNat
  · rw [afterCopied_more (s := { s with dest := s.dest.write (base + (s.rcvd + i)) b }) hmore]
    exact hd.inv_of_position rfl hx (by simp [hpd]) (.copy (i + 1) hr hp ho hmore hfit) rfl
  · rw [afterCopied_last (s := { s with dest := s.dest.write (base + (s.rcvd + i)) b }) hmore]
    exact (hd.advanceRcvd hp hfit).inv_of_standing rfl hx (by simp [hpd]) (.dataStep hp)

/-! ## The CORE's move -/

/-- The task that stands next, taken off, answers only states that meet the invariant. -/
theorem runTask_inv (h : DataOk s) (hx : s.rxState = .idle) {u : Task} (hs : Standing s (u :: s.pending)) :
    Answers Inv (runTask u s) := by
  generalize hpd : s.pending = ts at hs
  cases hs with
  | platform hp hd hh =>
    exact answers_next.2 ((platformInit_dataOk h).inv_of_standing rfl hx hpd (.rest hp))
  | handOver hp hres =>
    obtain ⟨r, hres⟩ := Option.isSome_iff_exists.1 hres
    have hdone : execDone s = .next (handResult r s) := by simp [execDone, hp, hres]
    show Answers Inv (execDone s)
    rw [hdone]
    exact answers_next.2 (h.inv_of_standing rfl hx hpd (.rest hp))
  | quiet i _ hq hp hts => exact quiet_inv h hx hp (hpd ▸ hts) hq
  | failing c hp => exact answers_ite (fun h0 => absurd h0 hp) fun _ => answers_next.2 (failSession_inv h hx c)
  | attempt hp =>
    refine answers_ite (fun _ => answers_next.2 ?_) fun _ => answers_fault _
    exact (discardInput_dataOk h).inv_of_position rfl hx (by simp [hpd])
      (.quiet .crq _ rfl (by simp [hp]) (.handshake Config.tolHandshake hp)) rfl
  | handshake tol hp =>
    exact answers_ite (fun _ => answers_next.2 (beginReceive_inv h (by simp [hp]) hpd tol)) fun _ => answers_fault _
  | dataStep hp => exact receiveStep_inv h hpd (by decide) _
  | termStep hp => exact receiveStep_inv h hpd (by decide) _
  | dispatch hr => exact runSelected_inv h hx hpd hr fun _ hi => .inl hi
  | parse p n hr hsel hn =>
    refine answers_ite (fun _ => answers_next.2 ?_) fun hn' => absurd hn hn'
    exact h.inv_of_position rfl hx hpd (.header hr hsel) rfl
  | header hr hsel => exact runSelected_inv h hx hpd hr fun _ hi => .inr ⟨hsel, hi⟩
  | branch i hr hsel => exact branch_inv h hx hpd hr hsel
  | copy i hr hp ho hi hfit => exact copyByte_inv h hx hpd (.copy i hr hp ho hi hfit)
  | enterB hp hlen =>
    exact answers_next.2 ((h.enterB (by simp [hp]) hlen).inv_of_standing rfl hx (by simp [hpd]) (.dataStep rfl))
  | enterC hp htot =>
    exact answers_next.2 ((h.enterC hp htot).inv_of_standing rfl hx (by simp [hpd]) (.termStep rfl))

theorem coreMove_inv (h : Inv s) : Answers Inv (coreMove s) := by
  cases hpd : s.pending with
  | nil =>
    unfold coreMove
    rw [hpd]
    exact answers_next.2 h
  | cons u ts =>
    rw [coreMove_cons hpd]
    have hd : DataOk { s with pending := ts } := h.dataOk.congr rfl
    rcases h.control with ⟨hx, hp, hrx⟩ | ⟨hx, hst⟩
    · rw [hpd] at hrx
      injection hrx with hu hts
      exact hu ▸ rxStep_inv hd hx hp hts
    · rw [hpd] at hst
      have hpos : SamePosition s { s with pending := ts } := .of_part rfl
      exact runTask_inv hd hx (hst.congr hpos)

/-! ## Every step -/

theorem start_inv (h : Inv s) (ht : hostTurn s = true) (dest : Nat) : Answers Inv (exec (.start dest) s) := by
  have hpd : s.pending = [] := by
    simp only [hostTurn, Bool.and_eq_true, List.isEmpty_iff] at ht
    exact ht.2
  exact answers_ite (fun _ => answers_next.2 (startSession_inv h.dataOk hpd dest)) fun _ => answers_next.2 h

/-- An arrival moves bytes of LINE and HWFIFO alone. -/
theorem rxArrive_positionPart (lost : Nat) (s : State) : (rxArrive lost s).positionPart = s.positionPart := by
  unfold rxArrive
  repeat' split
  all_goals rfl

theorem rxArrive_pending (lost : Nat) (s : State) : (rxArrive lost s).pending = s.pending := by
  unfold rxArrive
  repeat' split
  all_goals rfl

theorem playEvent_inv (h : Inv s) (e : Event) : Answers Inv (playEvent e s) := by
  have hd := h.dataOk
  cases e with
  | core => exact coreMove_inv h
  | service => exact answers_next.2 (h.still (serviceRx_dataOk hd) rfl rfl)
  | tick n => exact answers_next.2 (h.still (hd.tick n) rfl rfl)
  | peerSend b => exact answers_next.2 (h.still (hd.congr rfl) rfl rfl)
  | rxArrive lost =>
    exact answers_next.2 (h.still (rxArrive_dataOk hd lost) (rxArrive_positionPart lost s) (rxArrive_pending lost s))
  | lineLose => exact answers_next.2 (h.still (hd.congr rfl) rfl rfl)
  | lineAlter b => exact answers_next.2 (h.still (hd.congr rfl) rfl rfl)
  | txReady v => exact answers_next.2 (h.still (hd.congr rfl) rfl rfl)
  | hostStart dest => exact answers_ite (start_inv h · dest) fun _ => answers_next.2 h
  | hostLoop dest =>
    refine answers_ite (fun ht => ?_) fun _ => answers_next.2 h
    split
    · exact start_inv h ht dest
    · exact answers_next.2 h
  | hostReset => exact answers_next.2 (powerUp_inv hd)
  | hostWrite a b =>
    exact answers_ite (fun _ => answers_next.2 (h.still (hd.writeDest a b) rfl rfl)) fun _ => answers_next.2 h

theorem step_inv (h : Inv s) : Answers Inv (step s) := by
  unfold step stepOnce
  split
  · exact coreMove_inv h
  · next e es _ => exact playEvent_inv (s := { s with script := es }) (h.still (h.dataOk.congr rfl) rfl rfl) e

end

/-- Settles O53: the step is the CORE's move or a script entry; the CORE's move goes through the position it stands at. -/
theorem stepKeepsTheInvariant : Obligations.StepKeepsTheInvariant :=
  fun _ t h ht => step_inv h t ht

end Sys2Proof.Machine
end

section
/-! SUPPORT. Who writes the HOST's memory: no instruction's own step, and of the CORE's tasks the payload copy alone
(R43, R167). -/

namespace Sys2Proof.Machine

/-- The HOST's memory is as it was, and no copy has been put next. -/
def NoCopyBegun (s t : State) : Prop :=
  t.dest = s.dest ∧ (t.pending = s.pending ∨ ∃ u ts, t.pending = u :: ts ∧ ∀ k, u ≠ .copy k)

section
variable {s t : State}

theorem NoCopyBegun.same (hd : t.dest = s.dest) (hp : t.pending = s.pending) : NoCopyBegun s t := ⟨hd, .inl hp⟩

theorem NoCopyBegun.next (hd : t.dest = s.dest) {u : Task} {ts : List Task} (hp : t.pending = u :: ts)
    (hu : ∀ k, u ≠ .copy k) : NoCopyBegun s t := ⟨hd, .inr ⟨u, ts, hp, hu⟩⟩

/-! ## The shared operations -/

/-- A write waits with its own call next, or goes on after the byte. -/
theorem writeThen_noCopy {b : Byte} {i : Instr} {k : State → Result}
    (hk : Answers (NoCopyBegun s) (k { serviceRx s with txlog := s.txlog ++ [b] })) :
    Answers (NoCopyBegun s) (writeThen b i k s) :=
  answers_writeThen (.next rfl rfl nofun) hk

theorem write_noCopy (s : State) (b : Byte) (i : Instr) : Answers (NoCopyBegun s) (writeThen b i .next s) :=
  writeThen_noCopy (answers_next.2 (.same rfl rfl))

theorem writeCall_noCopy (s : State) (b : Byte) (i j : Instr) (ts : List Task) :
    Answers (NoCopyBegun s) (writeThen b i (fun s' => .next (s'.push (.call j :: ts))) s) :=
  writeThen_noCopy (answers_next.2 (.next rfl rfl nofun))

theorem abortAndFail_noCopy (s : State) (c : FailCause) : Answers (NoCopyBegun s) (abortAndFail c s) :=
  answers_next.2 (.next rfl rfl nofun)

theorem failSession_noCopy (s : State) (c : FailCause) : Answers (NoCopyBegun s) (.next (failSession c s)) :=
  answers_next.2 (.next rfl rfl nofun)

/-- A turn of a read returns, or waits with its own turn next. -/
theorem readTurn_noCopy (s : State) : Answers (NoCopyBegun s) (readTurn s) := by
  unfold readTurn
  rcases pollRead_cases s with ⟨b, h⟩ | h | h | h <;> rw [h]
  · exact answers_next.2 (.same rfl rfl)
  · exact answers_next.2 (.same rfl rfl)
  · exact answers_next.2 (.next rfl rfl nofun)
  · exact answers_fault _

theorem receiveStep_noCopy (p : Phase) (tol : BitVec 2) (s : State) : Answers (NoCopyBegun s) (receiveStep p tol s) :=
  answers_ite (fun _ => answers_ite (fun _ => answers_next.2 (.next rfl rfl nofun)) fun _ => answers_fault _)
    fun _ => answers_fault _

/-! ## The instructions -/

/-- Every instruction but B.ok_accept leaves the HOST's memory as it is and puts no copy next. -/
theorem exec_noCopy (i : Instr) (hi : i ≠ .bOkAccept) (s : State) : Answers (NoCopyBegun s) (exec i s) := by
  have aborts := abortAndFail_noCopy s
  have fails := failSession_noCopy s
  cases i with
  | soh => exact answers_inTagPosition fun _ => .next rfl rfl nofun
  | stx => exact answers_inTagPosition fun _ => .next rfl rfl nofun
  | eot => exact answers_inTagPosition fun _ => .same rfl rfl
  | can =>
    refine answers_inTagPosition fun _ => ?_
    unfold cancelByte
    split
    · exact .same rfl rfl
    · exact .next rfl rfl nofun
  | illegal b => exact answers_inTagPosition fun _ => .same rfl rfl
  | ack => exact write_noCopy s _ _
  | nak => exact write_noCopy s _ _
  | crq => exact write_noCopy s _ _
  | canTx => exact write_noCopy s _ _
  | bs => exact write_noCopy s _ _
  | abortSeq => exact answers_next.2 (.next rfl rfl nofun)
  | crc16 bytes => exact answers_next.2 (.same rfl rfl)
  | ringPush b => exact answers_next.2 (.same rfl rfl)
  | ringPop =>
    show Answers _ (execRingPop s)
    unfold execRingPop ringPop
    split
    · next h =>
      split at h
      · cases h; exact answers_next.2 (.same rfl rfl)
      split at h <;> cases h
      exact answers_next.2 (.same rfl rfl)
    · exact answers_fault _
  | serviceRx => exact answers_next.2 (.same rfl rfl)
  | readByte timeout => exact readTurn_noCopy (startRead timeout s)
  | writeByte b => exact write_noCopy s _ _
  | discardInput => exact answers_next.2 (.same rfl rfl)
  | receive tol => exact answers_ite (fun _ => answers_next.2 (.next rfl rfl nofun)) fun _ => answers_fault _
  | parseLen p n =>
    exact answers_ite (fun _ => answers_next.2 (.same rfl rfl)) fun _ => answers_next.2 (.same rfl rfl)
  | phaseAAttempt => exact answers_ite (fun _ => answers_next.2 (.next rfl rfl nofun)) fun _ => answers_fault _
  | phaseBStep => exact receiveStep_noCopy _ _ s
  | phaseCStep => exact receiveStep_noCopy _ _ s
  | abortProcedure => exact answers_next.2 (.next rfl rfl nofun)
  | report c =>
    cases htext : diagTextOf s.par c with
    | nil => exact answers_next.2 (.same rfl (by simp [htext]))
    | cons b bs =>
      have hp := congrArg (fun text => text.map (fun b => Task.call (.writeByte b)) ++ s.pending) htext
      exact answers_next.2 (.next rfl hp nofun)
  | succeed n => exact answers_ite (fun _ => answers_next.2 (.next rfl rfl nofun)) fun _ => answers_fault _
  | fail c => exact answers_ite (fun _ => answers_fault _) fun _ => fails c
  | start dest =>
    exact answers_ite (fun _ => answers_next.2 (.next rfl rfl nofun)) fun _ => answers_next.2 (.same rfl rfl)
  | done =>
    show Answers _ (execDone s)
    unfold execDone
    split
    · exact answers_next.2 (.same rfl rfl)
    · exact answers_fault _
  | hwInit => exact answers_next.2 (.same rfl rfl)
  | reset => exact answers_next.2 (.next rfl rfl nofun)
  | aOkSeq0 => exact answers_onHeader fun _ _ _ _ _ => answers_next.2 (.next rfl rfl nofun)
  | aHeaderAccepted =>
    refine answers_onHeader fun _ _ _ _ _ => ?_
    split
    · exact answers_fault _
    · exact answers_onlyIf fun _ => writeCall_noCopy { s with total := _ } _ _ _ _
  | aHeaderMalformed => exact answers_onHeader fun _ _ _ _ _ => answers_onlyIf fun _ => aborts _
  | aLenExceedsCap =>
    refine answers_onHeader fun _ _ _ _ _ => ?_
    split
    · exact answers_fault _
    · exact answers_onlyIf fun _ => aborts _
  | aProtocolError => exact answers_onBranch fun _ _ => aborts _
  | aAbort => exact answers_onBranch fun _ _ => writeThen_noCopy (answers_next.2 (.next rfl rfl nofun))
  | aOkSeqNonzero => exact answers_onOk fun _ _ _ _ => answers_onlyIf fun _ => writeCall_noCopy s _ _ _ _
  | aEndOfTransfer => exact answers_onBranch fun _ _ => aborts _
  | aTimeout => exact answers_onBranch fun _ _ => answers_next.2 (.next rfl rfl nofun)
  | bEotComplete =>
    exact answers_onBranch fun _ _ => answers_withTotal fun _ _ => answers_onlyIf fun _ => writeCall_noCopy s _ _ _ _
  | bEotShort =>
    exact answers_onBranch fun _ _ => answers_withTotal fun _ _ => answers_onlyIf fun _ => writeCall_noCopy s _ _ _ _
  | bOkWrongSeq => exact answers_onOk fun _ _ _ _ => answers_onlyIf fun _ => writeCall_noCopy s _ _ _ _
  | bOkOverrun => exact answers_onOk fun _ _ _ _ => answers_withTotal fun _ _ => answers_onlyIf fun _ => aborts _
  | bOkAccept => exact absurd rfl hi
  | bProtocolError => exact answers_onBranch fun _ _ => aborts _
  | bAbort => exact answers_onBranch fun _ _ => fails _
  | bTimeout => exact answers_onBranch fun _ _ => aborts _
  | cEndOfTransfer =>
    exact answers_onBranch fun _ _ => answers_withTotal fun _ _ =>
      writeThen_noCopy (answers_next.2 (.next rfl rfl nofun))
  | cOk => exact answers_onBranch fun _ _ => answers_ite (fun _ => aborts _) fun _ => fails _
  | cProtocolError => exact answers_onBranch fun _ _ => aborts _
  | cTimeout => exact answers_onBranch fun _ _ => aborts _
  | cAbort => exact answers_onBranch fun _ _ => fails _

/-- The accepting branch waits, or puts the copy of byte 0 next (R167). -/
theorem bOkAccept_pending (s : State) : Answers
    (fun t => t.dest = s.dest ∧ (t.pending = .call .bOkAccept :: s.pending ∨ t.pending = .copy 0 :: s.pending))
    (exec .bOkAccept s) :=
  answers_onOk fun _ _ _ _ => answers_withTotal fun _ _ => answers_onlyIf fun _ =>
    answers_writeThen ⟨rfl, .inl rfl⟩ (answers_next.2 ⟨rfl, .inr rfl⟩)

/-- No instruction's own step writes the HOST's memory. -/
theorem exec_dest (i : Instr) (s : State) : Answers (·.dest = s.dest) (exec i s) := by
  by_cases hi : i = .bOkAccept
  · exact hi ▸ (bOkAccept_pending s).mono fun t ht => ht.1
  · exact (exec_noCopy i hi s).mono fun t ht => ht.1

/-- A copy that an instruction puts next is the accepting branch's, at byte 0. -/
theorem copy_begun_by_accept {i : Instr} (he : exec i s = .next t) {k : Nat} {ts : List Task}
    (hk : t.pending = .copy k :: ts) (hne : s.pending ≠ t.pending) : i = .bOkAccept ∧ k = 0 := by
  by_cases hi : i = .bOkAccept
  · subst hi
    obtain ⟨_, hp | hp⟩ := bOkAccept_pending s t he
    · rw [hk] at hp; cases hp
    · rw [hk] at hp; cases hp; exact ⟨rfl, rfl⟩
  · obtain ⟨_, hp | ⟨u, us, hp, hu⟩⟩ := exec_noCopy i hi s t he
    · exact absurd hp.symm hne
    · rw [hk] at hp; cases hp; exact absurd rfl (hu k)

/-! ## The CORE's tasks and the environment -/

theorem rxStep_dest (s : State) : Answers (·.dest = s.dest) (rxStep s) := by
  unfold rxStep
  split
  · exact answers_next.2 rfl
  · unfold rxTag
    rcases pollRead_cases s with ⟨b, h⟩ | h | h | h <;> rw [h]
    · exact exec_dest (decodeLeading b) _
    · exact answers_next.2 rfl
    · exact answers_next.2 rfl
    · exact answers_fault _
  · refine answers_ite (fun _ => ?_) fun _ => answers_next.2 rfl
    rcases pollRead_cases s with ⟨b, h⟩ | h | h | h <;> rw [h]
    · refine answers_next.2 ?_
      unfold storeBody
      dsimp only
      split <;> rfl
    · exact answers_next.2 rfl
    · exact answers_next.2 rfl
    · exact answers_fault _
  · unfold rxCheck
    split
    · exact answers_fault _
    · refine answers_next.2 ?_
      rw [finishReceive_dest]
      split <;> rfl

theorem runSelected_dest (r : Except Fault Instr) (s : State) : Answers (·.dest = s.dest) (runSelected r s) := by
  cases r with
  | error f => exact answers_fault f
  | ok i => exact exec_dest i s

/-- Of the CORE's tasks the copy alone writes the HOST's memory. -/
theorem runTask_dest {u : Task} (hu : ∀ i, u ≠ .copy i) (s : State) : Answers (·.dest = s.dest) (runTask u s) := by
  cases u with
  | call i => exact exec_dest i s
  | readPoll => exact (readTurn_noCopy s).mono fun t ht => ht.1
  | rx => exact rxStep_dest s
  | dispatch => exact runSelected_dest _ s
  | header => exact runSelected_dest _ s
  | copy i => exact absurd rfl (hu i)
  | enterB => exact answers_next.2 rfl
  | enterC => exact answers_next.2 rfl

/-- A move of the environment writes it by the HOST's own write alone. -/
theorem playEvent_dest {e : Event} (hc : e ≠ .core) (hw : ∀ a b, e ≠ .hostWrite a b) (s : State) :
    Answers (·.dest = s.dest) (playEvent e s) := by
  cases e with
  | core => exact absurd rfl hc
  | service => exact answers_next.2 rfl
  | tick n => exact answers_next.2 rfl
  | peerSend b => exact answers_next.2 rfl
  | rxArrive lost =>
    refine answers_next.2 ?_
    unfold rxArrive
    split
    · rfl
    split <;> rfl
  | lineLose => exact answers_next.2 rfl
  | lineAlter b => exact answers_next.2 rfl
  | txReady v => exact answers_next.2 rfl
  | hostStart dest => exact answers_ite (fun _ => exec_dest _ s) fun _ => answers_next.2 rfl
  | hostLoop dest =>
    refine answers_ite (fun _ => ?_) fun _ => answers_next.2 rfl
    split
    · exact exec_dest _ s
    · exact answers_next.2 rfl
  | hostReset => exact answers_next.2 rfl
  | hostWrite a b => exact absurd rfl (hw a b)

/-! ## The byte that is written -/

/-- Where the copy stands next the CORE copies a payload byte of an accepted packet (R167, R182). -/
theorem Inv.copy_position (h : Inv s) {i : Nat} {ts : List Task} (hpd : s.pending = .copy i :: ts) :
    s.phase = .b ∧ i < s.pktSize.toNat := by
  rcases h.control with ⟨_, _, hrx⟩ | ⟨_, hst⟩
  · rw [hpd] at hrx
    cases hrx
  · rw [hpd] at hst
    cases hst with
    | copy _ _ hp _ hi _ => exact ⟨hp, hi⟩

/-- A packet byte that the Session Controller reads is PKT's, under `Ok`. -/
theorem pktAt_some {i : Nat} {b : Byte} (h : pktAt s i = some b) : s.outcome = .ok ∧ s.pkt.read i = some b := by
  unfold pktAt at h
  split at h
  · next hc =>
    simp only [packetHeld, Bool.and_eq_true, beq_iff_eq] at hc
    exact ⟨hc.1.1, h⟩
  · cases h

theorem copyByte_dest {i : Nat} (h : copyByte i s = .next t) :
    ∃ b base, s.outcome = .ok ∧ s.pkt.read (3 + i) = some b ∧ s.destRef = some base ∧ s.rcvd + i < s.par.destCap ∧
      t.dest = s.dest.write (base + (s.rcvd + i)) b := by
  obtain ⟨b, base, hb, hd, hfit, rfl⟩ := copyByte_next h
  obtain ⟨ho, hr⟩ := pktAt_some hb
  refine ⟨b, base, ho, hr, hd, hfit, ?_⟩
  unfold afterCopied
  split <;> rfl

/-- The CORE's move that changes the HOST's memory is a byte of the copy. -/
theorem coreMove_dest_changed (h : coreMove s = .next t) (hne : t.dest ≠ s.dest) :
    ∃ i ts b base, s.pending = .copy i :: ts ∧ s.outcome = .ok ∧ s.pkt.read (3 + i) = some b ∧
      s.destRef = some base ∧ s.rcvd + i < s.par.destCap ∧ t.dest = s.dest.write (base + (s.rcvd + i)) b := by
  cases hpd : s.pending with
  | nil =>
    unfold coreMove at h
    rw [hpd] at h
    injection h with h
    exact absurd (h ▸ rfl) hne
  | cons u ts =>
    rw [coreMove_cons hpd] at h
    by_cases hu : ∃ i, u = .copy i
    · obtain ⟨i, rfl⟩ := hu
      obtain ⟨b, base, hcopy⟩ := copyByte_dest h
      exact ⟨i, ts, b, base, rfl, hcopy⟩
    · exact absurd (runTask_dest (fun i hi => hu ⟨i, hi⟩) _ t h) hne

/-- The HOST's own write, or nothing. -/
theorem hostWrite_dest {a : Nat} {b : Byte} (h : playEvent (.hostWrite a b) s = .next t) (hne : t.dest ≠ s.dest) :
    t.dest = s.dest.write a b := by
  have hcases : Answers (fun t => t.dest = s.dest.write a b ∨ t.dest = s.dest) (playEvent (.hostWrite a b) s) :=
    answers_ite (fun _ => answers_next.2 (.inl rfl)) fun _ => answers_next.2 (.inr rfl)
  exact (hcases t h).resolve_right hne

/-- The script entry that a turn takes off is not what the invariant speaks of. -/
theorem Inv.of_coreTurn (h : Inv s) {s0 : State} (hct : coreTurn s s0) : Inv s0 := by
  rw [coreTurn_fields hct]
  exact h.still (h.dataOk.congr rfl) rfl rfl

/-- The CORE's turn that changes the HOST's memory is a byte of the copy of an accepted packet. -/
theorem coreTurn_dest_changed {s0 : State} (hct : coreTurn s s0) (h : step s = .next t) (hne : t.dest ≠ s.dest) :
    ∃ i ts b base, s0.pending = .copy i :: ts ∧ s0.outcome = .ok ∧ s0.pkt.read (3 + i) = some b ∧
      s0.destRef = some base ∧ s0.rcvd + i < s0.par.destCap ∧ t.dest = s0.dest.write (base + (s0.rcvd + i)) b ∧
      (Inv s → s0.phase = .b ∧ i < s0.pktSize.toNat) := by
  have hd : s0.dest = s.dest := by rw [coreTurn_fields hct]
  obtain ⟨i, ts, b, base, hpd, ho, hr, hb, hfit, hw⟩ :=
    coreMove_dest_changed ((coreTurn_step hct).symm.trans h) (hd ▸ hne)
  exact ⟨i, ts, b, base, hpd, ho, hr, hb, hfit, hw, fun hinv => (hinv.of_coreTurn hct).copy_position hpd⟩

end

/-- Settles O57: the step that changes the HOST's memory is the CORE's turn or a script entry; the CORE's tasks and the
entries leave it alone but for the copy and the HOST's write, and so does every instruction. -/
theorem onlyAcceptanceWritesDest : Obligations.OnlyAcceptanceWritesDest := by
  refine ⟨fun s t hstep hne => ?_, fun i s t he =>
    ⟨exec_dest i s t he, fun k ts hk hp => copy_begun_by_accept he hk hp⟩⟩
  cases hs : s.script with
  | nil =>
    have hct : coreTurn s s := .inl ⟨hs, rfl⟩
    obtain ⟨i, ts, b, base, hcopy⟩ := coreTurn_dest_changed hct hstep hne
    exact .inr ⟨s, i, ts, b, base, hct, hcopy⟩
  | cons e es =>
    have hplay : playEvent e { s with script := es } = .next t := by
      rw [← hstep, step, stepOnce, hs]
    by_cases hc : e = .core
    · subst hc
      have hct : coreTurn s { s with script := es } := .inr ⟨es, hs, rfl⟩
      obtain ⟨i, ts, b, base, hcopy⟩ := coreTurn_dest_changed hct hstep hne
      exact .inr ⟨_, i, ts, b, base, hct, hcopy⟩
    by_cases hw : ∃ a b, e = .hostWrite a b
    · obtain ⟨a, b, rfl⟩ := hw
      exact .inl ⟨a, b, es, rfl, hostWrite_dest (s := { s with script := es }) hplay hne⟩
    · exact absurd (playEvent_dest hc (fun a b he => hw ⟨a, b, he⟩) _ t hplay) hne

end Sys2Proof.Machine
end

section
/-! SUPPORT. An accepted packet is copied to DEST byte by byte (R167). -/

namespace Sys2Proof.Machine

section
variable {s u : State}

/-! ## Runs -/

theorem run_of_step {M : Host.Core} {s s' : M.State} (h : M.step s = .next s') (k : Nat) :
    M.run (k + 1) s = M.run k s' := by rw [Host.Core.run, h]

/-- A run that goes on has made its first step. -/
theorem step_of_run {M : Host.Core} {s u : M.State} {k : Nat} (h : M.run (k + 1) s = .next u) :
    ∃ s', M.step s = .next s' ∧ M.run k s' = .next u := by
  rw [Host.Core.run] at h
  split at h
  · next s' hs => exact ⟨s', hs, h⟩
  · cases h
  · cases h

/-- A run of one step more ends with the step of the state reached. -/
theorem runSteps_succ {k : Nat} (h : runSteps k s = .next u) {v : State} (hv : step u = .next v) :
    runSteps (k + 1) s = .next v := by
  induction k generalizing s with
  | zero =>
    injection h with h
    exact run_of_step (M := core) (h ▸ hv) 0
  | succ k ih =>
    obtain ⟨s', hs, hk⟩ := step_of_run (M := core) h
    exact (run_of_step (M := core) hs _).trans (ih hk)

/-- With no script the CORE runs the task that stands next. -/
theorem step_of_pending (hscript : s.script = []) (t : Task) (ts : List Task) :
    step { s with pending := t :: ts } = runTask t { s with pending := ts } :=
  have hct : coreTurn { s with pending := t :: ts } { s with pending := t :: ts } := .inl ⟨hscript, rfl⟩
  (coreTurn_step hct).trans (coreMove_cons (s := { s with pending := t :: ts }) rfl)

/-! ## The accepting branch -/

/-- In Phase B an expected packet that fits TOTAL is accepted (R167). -/
theorem selectBranch_of_accept {t : Nat} (hp : s.phase = .b) (ho : s.outcome = .ok) (hq : seqOf s = some s.expSeq)
    (ht : s.total = some t) (hfit : s.rcvd + s.pktSize.toNat ≤ t) : selectBranch s = .ok .bOkAccept := by
  simp [selectBranch, hp, ho, hq, ht, overruns_eq_false.2 hfit]

/-- Its branch is a write of ACK, then the copy begins. -/
theorem bOkAccept_eq {t : Nat} (hp : s.phase = .b) (ho : s.outcome = .ok) (hq : seqOf s = some s.expSeq)
    (ht : s.total = some t) (hfit : s.rcvd + s.pktSize.toNat ≤ t) :
    exec .bOkAccept s = writeThen 0x06#8 .bOkAccept (fun s' => .next (beginCopy s')) s := by
  show execBOkAccept s = _
  rw [execBOkAccept, onOk_eq hp ho hq, withTotal_eq ht, onlyIf_eq (by simp [overruns_eq_false.2 hfit])]
  rfl

/-! ## The copy -/

/-- The packet is acknowledged, with `m` the HOST's memory. -/
def acknowledged (s : State) (m : Memory) : State :=
  { serviceRx s with txlog := s.txlog ++ [0x06#8], expSeq := s.expSeq + 1, dest := m }

/-- Payload byte `k` is next, or the next data step after the last one. -/
def copyState (s : State) (k : Nat) (m : Memory) : State :=
  if k < s.pktSize.toNat then { acknowledged s m with pending := .copy k :: s.pending }
  else { acknowledged s m with rcvd := s.rcvd + s.pktSize.toNat, pending := .call .phaseBStep :: s.pending }

theorem copyState_eq (s : State) (k : Nat) (m : Memory) : copyState s k m =
    { serviceRx s with
      txlog := s.txlog ++ [0x06#8], expSeq := s.expSeq + 1, dest := (copyState s k m).dest,
      rcvd := if k < s.pktSize.toNat then s.rcvd else s.rcvd + s.pktSize.toNat,
      pending := (if k < s.pktSize.toNat then .copy k else .call .phaseBStep) :: s.pending } := by
  unfold copyState
  split <;> rfl

theorem copyState_dest (s : State) (k : Nat) (m : Memory) : (copyState s k m).dest = m := by
  unfold copyState
  split <;> rfl

/-- One step of the copy writes payload byte `k` at DEST[RCVD + k]. -/
theorem step_copyState {k base : Nat} {b : Byte} (hscript : s.script = []) (hk : k < s.pktSize.toNat)
    (hb : pktAt s (3 + k) = some b) (hd : s.destRef = some base) (hfit : s.rcvd + k < s.par.destCap) (m : Memory) :
    step (copyState s k m) = .next (copyState s (k + 1) (m.write (base + (s.rcvd + k)) b)) := by
  have hcopy : copyByte k (acknowledged s m) =
      .next (afterCopied k (acknowledged s (m.write (base + (s.rcvd + k)) b))) :=
    copyByte_eq (s := acknowledged s m) hb hd hfit
  have hafter : afterCopied k (acknowledged s (m.write (base + (s.rcvd + k)) b)) =
      copyState s (k + 1) (m.write (base + (s.rcvd + k)) b) := rfl
  rw [copyState, if_pos hk, step_of_pending (s := acknowledged s m) hscript, ← hafter]
  exact hcopy

/-- `m` holds the first `k` payload bytes at DEST[RCVD], and is the HOST's memory elsewhere. -/
structure Copied (s : State) (base k : Nat) (m : Memory) : Prop where
  inside : ∀ i, i < k → m.read (base + s.rcvd + i) = s.pkt.read (3 + i)
  outside : ∀ a, (a < base + s.rcvd ∨ base + s.rcvd + k ≤ a) → m.read a = s.dest.read a

theorem Copied.zero (s : State) (base : Nat) : Copied s base 0 s.dest := ⟨nofun, fun _ _ => rfl⟩

theorem Copied.write {base k : Nat} {m : Memory} (h : Copied s base k m) {b : Byte}
    (hb : s.pkt.read (3 + k) = some b) : Copied s base (k + 1) (m.write (base + (s.rcvd + k)) b) where
  inside i hi := by
    rw [read_write]
    split
    · next he => rw [show i = k by omega, hb]
    · exact h.inside i (by omega)
  outside a ha := by
    rw [read_write_other _ _ (by omega)]
    exact h.outside a (by omega)

/-- A payload that is readable is read byte by byte. -/
theorem pktAt_of_payloadOf {p : List Byte} (h : payloadOf s = some p) {i : Nat} (hi : i < s.pktSize.toNat) :
    ∃ b, pktAt s (3 + i) = some b := by
  unfold payloadOf at h
  split at h
  · next hheld =>
    have hx : Config.bodyExtra = 4 := rfl
    have hlen : i < p.length := by rw [readAll_length h]; exact hi
    refine ⟨p[i], ?_⟩
    rw [pktAt, if_pos ⟨hheld, by omega⟩, readAll_get h i hi]
    exact List.getElem?_eq_getElem hlen
  · cases h

/-- The branch and then `k` steps of its copy. -/
theorem runSteps_copy {t base : Nat} {p : List Byte} (hp : s.phase = .b) (ho : s.outcome = .ok)
    (hq : seqOf s = some s.expSeq) (ht : s.total = some t) (hfit : s.rcvd + s.pktSize.toNat ≤ t)
    (hcap : t ≤ s.par.destCap) (hd : s.destRef = some base) (hpl : payloadOf s = some p) (hr : s.txReady = true)
    (hscript : s.script = []) (k : Nat) (hk : k ≤ s.pktSize.toNat) :
    ∃ m, runSteps (k + 1) { s with pending := .call .bOkAccept :: s.pending } = .next (copyState s k m) ∧
      Copied s base k m := by
  induction k with
  | zero =>
    have hpos : 0 < s.pktSize.toNat := by rcases pktSize_toNat_cases s.pktSize with hz | hz <;> omega
    refine ⟨s.dest, runSteps_succ rfl ?_, .zero s base⟩
    rw [copyState, if_pos hpos]
    exact (step_of_pending hscript _ _).trans ((bOkAccept_eq hp ho hq ht hfit).trans (writeThen_ready hr _ _ _))
  | succ k ih =>
    obtain ⟨m, hrun, hm⟩ := ih (by omega)
    obtain ⟨b, hb⟩ := pktAt_of_payloadOf hpl hk
    exact ⟨_, runSteps_succ hrun (step_copyState hscript hk hb hd (by omega) m), hm.write (pktAt_some hb).2⟩

end

/-- Settles O46: the branch writes ACK and begins the copy; by induction on the bytes copied, each step of the copy extends
what stands in DEST by one byte. -/
theorem expectedPacketIsAppended : Obligations.ExpectedPacketIsAppended := by
  intro s t base p hp ho hq ht hfit hcap hd hpl
  have hexec := bOkAccept_eq hp ho hq ht hfit
  refine ⟨selectBranch_of_accept hp ho hq ht hfit, fun hr => hexec.trans (writeThen_ready hr _ _ _),
    fun hr => hexec.trans (writeThen_wait hr _ _ _), BitVec.toNat_add s.expSeq 1, fun hr hscript k hk => ?_⟩
  obtain ⟨m, hrun, hm⟩ := runSteps_copy hp ho hq ht hfit hcap hd hpl hr hscript k hk
  refine ⟨copyState s k m, Nat.add_comm k 1 ▸ hrun, copyState_eq s k m, ?_⟩
  rw [copyState_dest]
  exact ⟨hm.inside, hm.outside⟩

end Sys2Proof.Machine
end

section
/-! SUPPORT. Where an operation's condition holds it answers a next state: the shared operations, the Packet Receiver, the
branches that the dispatch selects, and each task at a position of the CORE (R47, R89, R230). -/

namespace Sys2Proof.Machine

/-- The result is a next state, neither a fault nor a refusal. -/
def Proceeds (r : Result) : Prop := ∃ t, r = .next t

section
variable {s : State}

theorem proceeds_next (t : State) : Proceeds (.next t) := ⟨t, rfl⟩

theorem proceeds_ite {c : Prop} [Decidable c] {a b : Result} (ha : c → Proceeds a) (hb : ¬ c → Proceeds b) :
    Proceeds (if c then a else b) := by
  split
  · next h => exact ha h
  · next h => exact hb h

/-- A write waits, or goes on after its byte (R119). -/
theorem proceeds_writeThen {b : Byte} {i : Instr} {k : State → Result} (hk : ∀ t, Proceeds (k t)) :
    Proceeds (writeThen b i k s) :=
  proceeds_ite (fun _ => hk _) fun _ => proceeds_next _

theorem proceeds_onBranch {p : Phase} {o : RecvOutcome} {k : Result} (hp : s.phase = p) (ho : s.outcome = o)
    (hk : Proceeds k) : Proceeds (onBranch p o s k) := by
  rwa [onBranch_eq hp ho]

theorem proceeds_onOk {p : Phase} {q : Byte} {k : Byte → Result} (hp : s.phase = p) (ho : s.outcome = .ok)
    (hq : seqOf s = some q) (hk : Proceeds (k q)) : Proceeds (onOk p s k) := by
  rwa [onOk_eq hp ho hq]

theorem proceeds_onHeader {p : List Byte} {k : List Byte → Result} (hp : s.phase = .a) (ho : s.outcome = .ok)
    (hq : seqOf s = some 0) (hpl : payloadOf s = some p) (hk : Proceeds (k p)) : Proceeds (onHeader s k) := by
  rwa [onHeader_eq hp ho hq hpl]

theorem proceeds_withTotal {n : Nat} {k : Nat → Result} (hn : s.total = some n) (hk : Proceeds (k n)) :
    Proceeds (withTotal s k) := by
  rwa [withTotal_eq hn]

theorem proceeds_onlyIf {c : Bool} {k : Result} (hc : c = true) (hk : Proceeds k) : Proceeds (onlyIf c k) := by
  rwa [onlyIf_eq hc]

/-! ## A receive in progress -/

/-- In the leading-byte position every byte has its effect (R131). -/
theorem leading_proceeds (hx : s.rxState = .tag) (b : Byte) : Proceeds (exec (decodeLeading b) s) := by
  rcases decodeLeading_cases b with he | he | he | he | he <;> rw [he] <;> exact ⟨_, inTagPosition_eq hx _⟩

/-- A `receive` in progress reads a byte, waits, times out, or checks a body that is stored (R131, R136 to R143). -/
theorem rxStep_proceeds (h : DataOk s) : Proceeds (rxStep s) := by
  cases hx : s.rxState with
  | idle => exact ⟨s, by rw [rxStep, hx]⟩
  | tag =>
    rcases pollRead_dataOk h with ⟨b, rd, cnt, hpoll, _⟩ | hpoll | hpoll
    · rw [rxTag_byte hx hpoll]
      exact leading_proceeds (s := { serviceRx s with ringRd := rd, ringCnt := cnt }) hx b
    · exact ⟨_, rxTag_none hx hpoll⟩
    · exact ⟨_, rxTag_waiting hx hpoll⟩
  | body =>
    obtain ⟨_, hi, _⟩ := h.receiver.body hx
    rcases pollRead_dataOk h with ⟨b, rd, cnt, hpoll, _⟩ | hpoll | hpoll
    · exact ⟨_, rxBody_byte hx hi hpoll⟩
    · exact ⟨_, rxBody_none hx hi hpoll⟩
    · exact ⟨_, rxBody_waiting hx hi hpoll⟩
  | check =>
    obtain ⟨_, hstored⟩ := h.receiver.check hx
    obtain ⟨body, hbody, _⟩ := readAll_isSome (m := s.pkt) (s.pktSize.toNat + Config.bodyExtra) 1 fun i hi =>
      hstored (1 + i) (by omega)
    exact ⟨_, rxCheck_eq hx hbody⟩

/-! ## The selected branch -/

/-- What `receive` reports as `Ok` is readable by the Session Controller (R27, R252). -/
theorem returned.packet_reads (hr : returned s) (hx : s.rxState = .idle) (ho : s.outcome = .ok) :
    (∃ q, seqOf s = some q) ∧ ∃ p, payloadOf s = some p ∧ p.length = s.pktSize.toNat :=
  Machine.packet_reads (by simp [packetHeld, ho, hx]) (hr.2 ho)

/-- The dispatch selects `i`, and `i` runs. -/
def DispatchRuns (s : State) (i : Instr) : Prop := selectBranch s = .ok i ∧ Proceeds (exec i s)

/-- In Phase A a branch is selected, and it runs (R152 to R161). -/
theorem phaseA_dispatchRuns (hx : s.rxState = .idle) (hr : returned s) (hp : s.phase = .a) :
    ∃ i, DispatchRuns s i := by
  cases ho : s.outcome with
  | ok =>
    obtain ⟨⟨q, hq⟩, p, hpl, _⟩ := hr.packet_reads hx ho
    by_cases h0 : q = 0x00#8
    · subst h0
      exact ⟨.aOkSeq0, selectBranch_of_header hp ho hq, proceeds_onHeader hp ho hq hpl (proceeds_next _)⟩
    · exact ⟨.aOkSeqNonzero, by simp [selectBranch, hp, ho, hq, h0],
        proceeds_onOk hp ho hq (proceeds_onlyIf (by simpa using h0) (proceeds_writeThen fun _ => proceeds_next _))⟩
  | endOfTransfer =>
    exact ⟨.aEndOfTransfer, by simp [selectBranch, hp, ho], proceeds_onBranch hp ho (proceeds_next _)⟩
  | abort =>
    exact ⟨.aAbort, by simp [selectBranch, hp, ho],
      proceeds_onBranch hp ho (proceeds_writeThen fun _ => proceeds_next _)⟩
  | protocolError =>
    exact ⟨.aProtocolError, by simp [selectBranch, hp, ho], proceeds_onBranch hp ho (proceeds_next _)⟩
  | timeout => exact ⟨.aTimeout, by simp [selectBranch, hp, ho], proceeds_onBranch hp ho (proceeds_next _)⟩

/-- In Phase B, where TOTAL has a value, a data packet is refused, overruns or is accepted (R165 to R167). -/
theorem dataPacket_dispatchRuns {n : Nat} {q : Byte} (hp : s.phase = .b) (ho : s.outcome = .ok)
    (hn : s.total = some n) (hq : seqOf s = some q) : ∃ i, DispatchRuns s i := by
  by_cases hseq : q = s.expSeq
  · subst hseq
    cases hov : overruns s.rcvd s.pktSize n with
    | true =>
      exact ⟨.bOkOverrun, by simp [selectBranch, hp, ho, hq, hn, hov],
        proceeds_onOk hp ho hq (proceeds_withTotal hn (proceeds_onlyIf (by simp [hov]) (proceeds_next _)))⟩
    | false =>
      exact ⟨.bOkAccept, selectBranch_of_accept hp ho hq hn (overruns_eq_false.1 hov),
        proceeds_onOk hp ho hq (proceeds_withTotal hn
          (proceeds_onlyIf (by simp [hov]) (proceeds_writeThen fun _ => proceeds_next _)))⟩
  · exact ⟨.bOkWrongSeq, by simp [selectBranch, hp, ho, hq, hn, hseq],
      proceeds_onOk hp ho hq (proceeds_onlyIf (by simpa using hseq) (proceeds_writeThen fun _ => proceeds_next _))⟩

/-- In Phase B a branch is selected, and it runs (R163 to R170). -/
theorem phaseB_dispatchRuns (h : DataOk s) (hx : s.rxState = .idle) (hr : returned s) (hp : s.phase = .b) :
    ∃ i, DispatchRuns s i := by
  obtain ⟨n, hn, _⟩ := h.session.data hp
  cases ho : s.outcome with
  | ok =>
    obtain ⟨⟨q, hq⟩, _⟩ := hr.packet_reads hx ho
    exact dataPacket_dispatchRuns hp ho hn hq
  | endOfTransfer =>
    by_cases hall : n ≤ s.rcvd
    · exact ⟨.bEotComplete, by simp [selectBranch, hp, ho, hn, hall],
        proceeds_onBranch hp ho (proceeds_withTotal hn
          (proceeds_onlyIf (by simpa using hall) (proceeds_writeThen fun _ => proceeds_next _)))⟩
    · exact ⟨.bEotShort, by simp [selectBranch, hp, ho, hn, hall],
        proceeds_onBranch hp ho (proceeds_withTotal hn
          (proceeds_onlyIf (by simpa using hall) (proceeds_writeThen fun _ => proceeds_next _)))⟩
  | abort => exact ⟨.bAbort, by simp [selectBranch, hp, ho], proceeds_onBranch hp ho (proceeds_next _)⟩
  | protocolError =>
    exact ⟨.bProtocolError, by simp [selectBranch, hp, ho], proceeds_onBranch hp ho (proceeds_next _)⟩
  | timeout => exact ⟨.bTimeout, by simp [selectBranch, hp, ho], proceeds_onBranch hp ho (proceeds_next _)⟩

/-- In Phase C a branch is selected, and it runs (R172 to R177). -/
theorem phaseC_dispatchRuns (h : DataOk s) (hp : s.phase = .c) : ∃ i, DispatchRuns s i := by
  obtain ⟨hn, _⟩ := h.session.termination hp
  cases ho : s.outcome with
  | ok =>
    exact ⟨.cOk, by simp [selectBranch, hp, ho],
      proceeds_onBranch hp ho (proceeds_ite (fun _ => proceeds_next _) fun _ => proceeds_next _)⟩
  | endOfTransfer =>
    exact ⟨.cEndOfTransfer, by simp [selectBranch, hp, ho],
      proceeds_onBranch hp ho (proceeds_withTotal hn (proceeds_writeThen fun _ => proceeds_next _))⟩
  | abort => exact ⟨.cAbort, by simp [selectBranch, hp, ho], proceeds_onBranch hp ho (proceeds_next _)⟩
  | protocolError =>
    exact ⟨.cProtocolError, by simp [selectBranch, hp, ho], proceeds_onBranch hp ho (proceeds_next _)⟩
  | timeout => exact ⟨.cTimeout, by simp [selectBranch, hp, ho], proceeds_onBranch hp ho (proceeds_next _)⟩

/-- After a `receive` of a session the dispatch selects a branch, and it runs (R89, R218). -/
theorem returned_dispatchRuns (h : DataOk s) (hx : s.rxState = .idle) (hr : returned s) : ∃ i, DispatchRuns s i := by
  cases hp : s.phase with
  | idle => exact absurd hp hr.1
  | a => exact phaseA_dispatchRuns hx hr hp
  | b => exact phaseB_dispatchRuns h hx hr hp
  | c => exact phaseC_dispatchRuns h hp

/-- What selects the header's branch: Phase A, `Ok`, sequence 0 (R152). -/
theorem header_of_selectBranch (h : selectBranch s = .ok .aOkSeq0) :
    s.phase = .a ∧ s.outcome = .ok ∧ seqOf s = some 0 := by
  unfold selectBranch at h
  repeat' split at h
  all_goals cases h
  next hp ho _ q hq h0 => exact ⟨hp, ho, h0 ▸ hq⟩

/-- For a header one of the three branches is selected, and it runs (R152, R154 to R156). -/
theorem header_runs (hx : s.rxState = .idle) (hr : returned s) (hsel : selectBranch s = .ok .aOkSeq0) :
    ∃ i, selectHeader s = .ok i ∧ Proceeds (exec i s) := by
  obtain ⟨hp, ho, hq⟩ := header_of_selectBranch hsel
  obtain ⟨_, p, hpl, _⟩ := hr.packet_reads hx ho
  cases hd : declaredLength s.par.lenW p with
  | none =>
    exact ⟨.aHeaderMalformed, by simp [selectHeader, hpl, hd],
      proceeds_onHeader hp ho hq hpl (proceeds_onlyIf (by simp [hd]) (proceeds_next _))⟩
  | some n =>
    by_cases hcap : s.par.destCap < n
    · refine ⟨.aLenExceedsCap, by simp [selectHeader, hpl, hd, hcap], proceeds_onHeader hp ho hq hpl ?_⟩
      rw [hd]
      exact proceeds_onlyIf (by simpa using hcap) (proceeds_next _)
    · refine ⟨.aHeaderAccepted, by simp [selectHeader, hpl, hd, hcap], proceeds_onHeader hp ho hq hpl ?_⟩
      rw [hd]
      exact proceeds_onlyIf (by simpa using hcap) (proceeds_writeThen fun _ => proceeds_next _)

/-- A selection that chose what runs. -/
theorem runSelected_proceeds {r : Except Fault Instr} (h : ∃ i, r = .ok i ∧ Proceeds (exec i s)) :
    Proceeds (runSelected r s) := by
  obtain ⟨i, rfl, hi⟩ := h
  exact hi

theorem selected_proceeds (h : DataOk s) (hx : s.rxState = .idle) (hr : returned s) {i : Instr} (hs : selected s i) :
    Proceeds (exec i s) := by
  rcases hs with hi | ⟨hsel, hi⟩
  · obtain ⟨j, hj, hrun⟩ := returned_dispatchRuns h hx hr
    rw [hi] at hj
    cases hj
    exact hrun
  · obtain ⟨j, hj, hrun⟩ := header_runs hx hr hsel
    rw [hi] at hj
    cases hj
    exact hrun

/-! ## The CORE's tasks -/

theorem quiet_proceeds {i : Instr} (hq : isQuiet i = true) : Proceeds (exec i s) := by
  match i, hq with
  | .crq, _ => exact proceeds_writeThen proceeds_next
  | .canTx, _ => exact proceeds_writeThen proceeds_next
  | .bs, _ => exact proceeds_writeThen proceeds_next
  | .writeByte b, _ => exact proceeds_writeThen proceeds_next
  | .abortSeq, _ => exact proceeds_next _
  | .abortProcedure, _ => exact proceeds_next _
  | .report c, _ => exact proceeds_next _
  | .discardInput, _ => exact proceeds_next _

/-- A phase step in its phase begins its `receive` (R162, R171). -/
theorem receiveStep_proceeds {p : Phase} (hp : s.phase = p) (hx : s.rxState = .idle) (tol : BitVec 2) :
    Proceeds (receiveStep p tol s) :=
  proceeds_ite (fun _ => proceeds_ite (fun _ => proceeds_next _) fun h => absurd hx h) fun h => absurd hp h

/-- A byte of the copy is readable, and its place lies in DEST (R167, R182 (a)). -/
theorem copyByte_proceeds (h : DataOk s) (hx : s.rxState = .idle) (hr : returned s) (hp : s.phase = .b)
    (ho : s.outcome = .ok) {i : Nat} (hi : i < s.pktSize.toNat)
    (hfit : ∀ t, s.total = some t → s.rcvd + s.pktSize.toNat ≤ t) : Proceeds (copyByte i s) := by
  obtain ⟨_, p, hpl, _⟩ := hr.packet_reads hx ho
  obtain ⟨b, hb⟩ := pktAt_of_payloadOf hpl hi
  obtain ⟨base, hbase⟩ := Option.isSome_iff_exists.1 (h.session.dest hr.1)
  obtain ⟨n, hn, _, hcap⟩ := h.session.data hp
  have hle := hfit n hn
  exact ⟨_, copyByte_eq hb hbase (by omega)⟩

/-- The task that stands next, taken off, runs. -/
theorem runTask_proceeds (h : DataOk s) (hx : s.rxState = .idle) {u : Task} (hs : Standing s (u :: s.pending)) :
    Proceeds (runTask u s) := by
  generalize s.pending = ts at hs
  cases hs with
  | platform => exact proceeds_next _
  | handOver hp hres =>
    obtain ⟨r, hres⟩ := Option.isSome_iff_exists.1 hres
    exact ⟨handResult r s, by simp [runTask, exec, execDone, hp, hres]⟩
  | quiet i _ hq => exact quiet_proceeds hq
  | failing c hp => exact proceeds_ite (fun h0 => absurd h0 hp) fun _ => proceeds_next _
  | attempt hp => exact proceeds_ite (fun _ => proceeds_next _) fun h => absurd hp h
  | handshake tol => exact proceeds_ite (fun _ => proceeds_next _) fun h => absurd hx h
  | dataStep hp => exact receiveStep_proceeds hp hx _
  | termStep hp => exact receiveStep_proceeds hp hx _
  | dispatch hr => exact runSelected_proceeds (returned_dispatchRuns h hx hr)
  | parse p n _ _ hn => exact proceeds_ite (fun _ => proceeds_next _) fun _ => proceeds_next _
  | header hr hsel => exact runSelected_proceeds (header_runs hx hr hsel)
  | branch i hr hsel => exact selected_proceeds h hx hr hsel
  | copy i hr hp ho hi hfit => exact copyByte_proceeds h hx hr hp ho hi hfit
  | enterB => exact proceeds_next _
  | enterC => exact proceeds_next _

/-! ## Every step -/

theorem coreMove_proceeds (h : Inv s) : Proceeds (coreMove s) := by
  cases hpd : s.pending with
  | nil => exact ⟨s, by rw [coreMove, hpd]⟩
  | cons u ts =>
    rw [coreMove_cons hpd]
    have hd : DataOk { s with pending := ts } := h.dataOk.congr rfl
    rcases h.control with ⟨_, _, hrx⟩ | ⟨hx, hst⟩
    · rw [hpd] at hrx
      cases hrx
      exact rxStep_proceeds hd
    · rw [hpd] at hst
      have hpos : SamePosition s { s with pending := ts } := .of_part rfl
      exact runTask_proceeds hd hx (hst.congr hpos)

theorem start_proceeds (s : State) (dest : Nat) : Proceeds (exec (.start dest) s) :=
  proceeds_ite (fun _ => proceeds_next _) fun _ => proceeds_next _

theorem playEvent_proceeds (h : Inv s) (e : Event) : Proceeds (playEvent e s) := by
  cases e with
  | core => exact coreMove_proceeds h
  | service => exact proceeds_next _
  | tick n => exact proceeds_next _
  | peerSend b => exact proceeds_next _
  | rxArrive lost => exact proceeds_next _
  | lineLose => exact proceeds_next _
  | lineAlter b => exact proceeds_next _
  | txReady v => exact proceeds_next _
  | hostStart dest => exact proceeds_ite (fun _ => start_proceeds s dest) fun _ => proceeds_next _
  | hostLoop dest =>
    refine proceeds_ite (fun _ => ?_) fun _ => proceeds_next _
    split
    · exact start_proceeds s dest
    · exact proceeds_next _
  | hostReset => exact proceeds_next _
  | hostWrite a b => exact proceeds_ite (fun _ => proceeds_next _) fun _ => proceeds_next _

end

/-- Settles O54: the step is the CORE's move or a script entry; at each position of the CORE the condition of the task that
stands next holds. -/
theorem invariantNeverFaults : Obligations.InvariantNeverFaults := by
  intro s h
  show Proceeds (stepOnce s)
  unfold stepOnce
  split
  · exact coreMove_proceeds h
  · next e es _ => exact playEvent_proceeds (s := { s with script := es }) (h.still (h.dataOk.congr rfl) rfl rfl) e

end Sys2Proof.Machine
end

section
/-! SUPPORT. What one step can do, said once: which fields an instruction keeps, how much it sends, whether it calls
`hw_init`, and how it moves PHASE and RESULT (R33, R41, R42, R180, R191). -/

namespace Sys2Proof.Machine

/-- LINE, the parameters, the script, COUNTER and TX_READY: what the environment alone moves (R41, R44, R45). -/
def State.environment (s : State) : List Byte × Params × List Event × Nat × Bool :=
  (s.line, s.par, s.script, s.counter, s.txReady)

/-- The moves of PHASE and RESULT (R33, R180, R192, R195). -/
inductive SessionMove : Phase → Option SessionResult → Phase → Option SessionResult → Prop where
  | same {p r} : SessionMove p r p r
  | started {p r} : p = .idle → SessionMove p r .a none
  | enterB {p r} : p = .a → SessionMove p r .b r
  | enterC {p r} : p = .b → SessionMove p r .c r
  | failed {p r} : p ≠ .idle → SessionMove p r .idle (some .failure)
  | succeeded {p r n} : p = .c → SessionMove p r .idle (some (.success n))
  | powerUp {p r} : SessionMove p r .idle none

/-- At most one byte is sent, and `hw_init` is not called. -/
structure Output (s t : State) : Prop where
  sent : t.txlog = s.txlog ∨ ∃ b, t.txlog = s.txlog ++ [b]
  calls : .call .hwInit ∈ t.pending → .call .hwInit ∈ s.pending

/-- What every operation but `reset` does. -/
structure Effect (s t : State) : Prop extends Output s t where
  environment : t.environment = s.environment
  session : SessionMove s.phase s.result t.phase t.result

section
variable {s t : State}

theorem SessionMove.mayGo {p q : Phase} {r r' : Option SessionResult} (h : SessionMove p r q r') :
    phaseMayGo p q = true := by
  cases h with
  | same | powerUp => cases p <;> rfl
  | started hp | enterB hp | enterC hp | succeeded hp => subst hp; rfl
  | failed => cases p <;> rfl

/-- A success is recorded in Phase C only (R33). -/
theorem SessionMove.success {p q : Phase} {r r' : Option SessionResult} (h : SessionMove p r q r') (hne : r' ≠ r)
    {n : Nat} (hn : r' = some (.success n)) : p = .c := by
  cases h with
  | same | enterB | enterC => exact absurd rfl hne
  | started | failed | powerUp => cases hn
  | succeeded hp => exact hp

/-! ## Effects by their shape -/

/-- Calls other than `hw_init` put before the pending ones. -/
theorem Effect.calling {ts : List Task} (sent : t.txlog = s.txlog ∨ ∃ b, t.txlog = s.txlog ++ [b])
    (pending : t.pending = ts ++ s.pending) (environment : t.environment = s.environment := by rfl)
    (session : SessionMove s.phase s.result t.phase t.result := by exact .same)
    (noInit : .call .hwInit ∉ ts := by simp) : Effect s t where
  sent := sent
  calls := by simp [pending, noInit]
  environment := environment
  session := session

/-- Nothing is sent or called. -/
theorem Effect.silent (sent : t.txlog = s.txlog := by rfl) (pending : t.pending = s.pending := by rfl)
    (environment : t.environment = s.environment := by rfl)
    (session : SessionMove s.phase s.result t.phase t.result := by exact .same) : Effect s t where
  sent := .inl sent
  calls := by simp [pending]
  environment := environment
  session := session

/-- The session ends, and `done` alone is pending (R180). -/
theorem Effect.ended (sent : t.txlog = s.txlog ∨ ∃ b, t.txlog = s.txlog ++ [b])
    (session : SessionMove s.phase s.result t.phase t.result) (environment : t.environment = s.environment := by rfl)
    (pending : t.pending = [.call .done] := by rfl) : Effect s t where
  sent := sent
  calls := by simp [pending]
  environment := environment
  session := session

/-- A call of `write_byte` waits or is done (R119). -/
theorem write_effect (s : State) (b : Byte) {i : Instr} (hi : .call .hwInit ∉ [Task.call i] := by simp) :
    Answers (Effect s) (writeThen b i .next s) :=
  answers_writeThen (.calling (.inl rfl) rfl (noInit := hi))
    (answers_next.2 (.calling (ts := []) (.inr ⟨b, rfl⟩) rfl))

/-- A branch waits, or leaves calls after its byte. -/
theorem writeCalls_effect (s : State) (b : Byte) {i : Instr} {ts : List Task}
    (hi : .call .hwInit ∉ [Task.call i] := by simp) (hts : .call .hwInit ∉ ts := by simp) :
    Answers (Effect s) (writeThen b i (fun s' => .next (s'.push ts)) s) :=
  answers_writeThen (.calling (.inl rfl) rfl (noInit := hi))
    (answers_next.2 (.calling (.inr ⟨b, rfl⟩) rfl (noInit := hts)))

theorem abortAndFail_effect (s : State) (c : FailCause) : Answers (Effect s) (abortAndFail c s) :=
  answers_next.2 (.calling (.inl rfl) rfl)

theorem failSession_effect (hp : s.phase ≠ .idle) (c : FailCause) :
    Answers (Effect s) (.next (failSession c s)) :=
  answers_next.2 (.ended (.inl rfl) (.failed hp))

/-! ## The receive path -/

/-- A pop takes at most the read cursor and the count along (R112). -/
theorem ringPop_ok {r : Option Byte} (h : ringPop s = .ok (r, t)) :
    ∃ rd cnt, t = { s with ringRd := rd, ringCnt := cnt } := by
  unfold ringPop at h
  split at h
  · cases h; exact ⟨_, _, rfl⟩
  · split at h <;> cases h
    exact ⟨_, _, rfl⟩

theorem ringPop_effect (s : State) : Answers (Effect s) (exec .ringPop s) := by
  show Answers _ (execRingPop s)
  unfold execRingPop
  split
  · next hpop =>
    obtain ⟨rd, cnt, rfl⟩ := ringPop_ok hpop
    exact answers_next.2 .silent
  · exact answers_fault _

theorem readTurn_effect (s : State) : Answers (Effect s) (readTurn s) := by
  unfold readTurn
  rcases pollRead_cases s with ⟨b, h⟩ | h | h | h <;> rw [h]
  · exact answers_next.2 .silent
  · exact answers_next.2 .silent
  · exact answers_next.2 (.calling (.inl rfl) rfl)
  · exact answers_fault _

theorem receiveStep_effect (p : Phase) (tol : BitVec 2) (s : State) : Answers (Effect s) (receiveStep p tol s) :=
  answers_ite (fun _ => answers_ite (fun _ => answers_next.2 (.calling (ts := [.rx, .dispatch]) (.inl rfl) rfl))
    fun _ => answers_fault _) fun _ => answers_fault _

theorem openBody_effect (s : State) (size : PktSize) : Answers (Effect s) (inTagPosition (openBody size) s) :=
  answers_inTagPosition fun _ => .calling (.inl rfl) rfl

theorem finishReceive_effect (s : State) (o : RecvOutcome) : Effect s (finishReceive o s) := .silent

theorem cancelByte_effect (s : State) : Effect s (cancelByte s) := by
  unfold cancelByte
  split
  · exact .silent
  · exact .calling (.inl rfl) rfl

/-- `done` hands a result over, or stops (R196). -/
theorem done_effect (s : State) : Answers (Effect s) (exec .done s) := by
  show Answers _ (execDone s)
  unfold execDone
  split
  · exact answers_next.2 .silent
  · exact answers_fault _

/-! ## The instructions -/

/-- Every instruction but `reset` keeps what is the environment's, sends at most one byte, does not call `hw_init`, and moves
PHASE and RESULT as the rules say. -/
theorem exec_effect {i : Instr} (hi : i ≠ .reset) (s : State) : Answers (Effect s) (exec i s) := by
  have aborts := abortAndFail_effect s
  cases i with
  | soh => exact openBody_effect s .short
  | stx => exact openBody_effect s .long
  | eot => exact answers_inTagPosition fun _ => finishReceive_effect s _
  | can => exact answers_inTagPosition fun _ => cancelByte_effect s
  | illegal b => exact answers_inTagPosition fun _ => finishReceive_effect s _
  | ack => exact write_effect s _
  | nak => exact write_effect s _
  | crq => exact write_effect s _
  | canTx => exact write_effect s _
  | bs => exact write_effect s _
  | abortSeq => exact answers_next.2 (.calling (.inl rfl) rfl (noInit := by decide))
  | crc16 bytes => exact answers_next.2 .silent
  | ringPush b => exact answers_next.2 .silent
  | ringPop => exact ringPop_effect s
  | serviceRx => exact answers_next.2 .silent
  | readByte timeout =>
    exact (readTurn_effect (startRead timeout s)).mono fun _ h => ⟨⟨h.sent, h.calls⟩, h.environment, h.session⟩
  | writeByte b => exact write_effect s b
  | discardInput => exact answers_next.2 .silent
  | receive tol => exact answers_ite (fun _ => answers_next.2 (.calling (.inl rfl) rfl)) fun _ => answers_fault _
  | parseLen p n => exact answers_ite (fun _ => answers_next.2 .silent) fun _ => answers_next.2 .silent
  | phaseAAttempt => exact answers_ite (fun _ => answers_next.2 (.calling (.inl rfl) rfl)) fun _ => answers_fault _
  | phaseBStep => exact receiveStep_effect _ _ s
  | phaseCStep => exact receiveStep_effect _ _ s
  | abortProcedure => exact answers_next.2 (.calling (.inl rfl) rfl)
  | report c => exact answers_next.2 (.calling (.inl rfl) rfl)
  | succeed n =>
    exact answers_ite (fun hp => answers_next.2 (.ended (.inl rfl) (.succeeded hp))) fun _ => answers_fault _
  | fail c => exact answers_ite (fun _ => answers_fault _) fun hp => failSession_effect hp c
  | start dest =>
    exact answers_ite (fun hp => answers_next.2 (.calling (.inl rfl) rfl (session := .started hp)))
      fun _ => answers_next.2 .silent
  | done => exact done_effect s
  | hwInit => exact answers_next.2 .silent
  | reset => exact absurd rfl hi
  | aOkSeq0 => exact answers_onHeader fun _ _ _ _ _ => answers_next.2 (.calling (.inl rfl) rfl)
  | aHeaderAccepted =>
    refine answers_onHeader fun _ _ _ _ _ => ?_
    split
    · exact answers_fault _
    · exact answers_onlyIf fun _ => (writeCalls_effect { s with total := _ } _).mono fun _ h =>
        ⟨⟨h.sent, h.calls⟩, h.environment, h.session⟩
  | aHeaderMalformed => exact answers_onHeader fun _ _ _ _ _ => answers_onlyIf fun _ => aborts _
  | aLenExceedsCap =>
    refine answers_onHeader fun _ _ _ _ _ => ?_
    split
    · exact answers_fault _
    · exact answers_onlyIf fun _ => aborts _
  | aProtocolError => exact answers_onBranch fun _ _ => aborts _
  | aAbort =>
    exact answers_onBranch fun hp _ => answers_writeThen (.calling (ts := [.call .aAbort]) (.inl rfl) rfl)
      (answers_next.2 (.ended (.inr ⟨_, rfl⟩) (.failed (by simp [hp]))))
  | aOkSeqNonzero => exact answers_onOk fun _ _ _ _ => answers_onlyIf fun _ => writeCalls_effect s _
  | aEndOfTransfer => exact answers_onBranch fun _ _ => aborts _
  | aTimeout => exact answers_onBranch fun _ _ => answers_next.2 (.calling (.inl rfl) rfl)
  | bEotComplete =>
    exact answers_onBranch fun _ _ => answers_withTotal fun _ _ => answers_onlyIf fun _ => writeCalls_effect s _
  | bEotShort =>
    exact answers_onBranch fun _ _ => answers_withTotal fun _ _ => answers_onlyIf fun _ => writeCalls_effect s _
  | bOkWrongSeq => exact answers_onOk fun _ _ _ _ => answers_onlyIf fun _ => writeCalls_effect s _
  | bOkOverrun => exact answers_onOk fun _ _ _ _ => answers_withTotal fun _ _ => answers_onlyIf fun _ => aborts _
  | bOkAccept =>
    exact answers_onOk fun _ _ _ _ => answers_withTotal fun _ _ => answers_onlyIf fun _ =>
      answers_writeThen (.calling (ts := [.call .bOkAccept]) (.inl rfl) rfl)
        (answers_next.2 (.calling (ts := [.copy 0]) (.inr ⟨_, rfl⟩) rfl))
  | bProtocolError => exact answers_onBranch fun _ _ => aborts _
  | bAbort => exact answers_onBranch fun hp _ => failSession_effect (by simp [hp]) _
  | bTimeout => exact answers_onBranch fun _ _ => aborts _
  | cEndOfTransfer =>
    exact answers_onBranch fun hp _ => answers_withTotal fun _ _ =>
      answers_writeThen (.calling (ts := [.call .cEndOfTransfer]) (.inl rfl) rfl)
        (answers_next.2 (.ended (.inr ⟨_, rfl⟩) (.succeeded hp)))
  | cOk => exact answers_onBranch fun hp _ => answers_ite (fun _ => aborts _) fun _ => failSession_effect (by simp [hp]) _
  | cProtocolError => exact answers_onBranch fun _ _ => aborts _
  | cTimeout => exact answers_onBranch fun _ _ => aborts _
  | cAbort => exact answers_onBranch fun hp _ => failSession_effect (by simp [hp]) _

end

end Sys2Proof.Machine
end

section
/-! SUPPORT. What the CORE's tasks and the script entries do, from what the instructions do: bytes sent, calls of `hw_init`,
moves of PHASE and RESULT. -/

namespace Sys2Proof.Machine

section
variable {s t : State}

/-! ## The CORE's tasks -/

/-- A leading byte is no `reset`. -/
theorem decodeLeading_ne_reset (b : Byte) : decodeLeading b ≠ .reset := by
  rcases decodeLeading_cases b with h | h | h | h | h <;> rw [h] <;> exact nofun

theorem storeBody_effect (b : Byte) (s : State) : Effect s (storeBody b s) := by
  unfold storeBody
  dsimp only
  split <;> exact .calling (ts := [.rx]) (.inl rfl) rfl

theorem rxTag_effect (s : State) : Answers (Effect s) (rxTag s) := by
  unfold rxTag
  rcases pollRead_cases s with ⟨b, h⟩ | h | h | h <;> rw [h]
  · exact (exec_effect (decodeLeading_ne_reset b) _).mono fun _ h => ⟨⟨h.sent, h.calls⟩, h.environment, h.session⟩
  · exact answers_next.2 .silent
  · exact answers_next.2 (.calling (.inl rfl) rfl)
  · exact answers_fault _

theorem rxBody_effect (s : State) : Answers (Effect s) (rxBody s) := by
  refine answers_ite (fun _ => ?_) fun _ => answers_next.2 (.calling (.inl rfl) rfl)
  rcases pollRead_cases s with ⟨b, h⟩ | h | h | h <;> rw [h]
  · have hstore := storeBody_effect b
      { serviceRx s with ringRd := (serviceRx s).ringRd + 1, ringCnt := (serviceRx s).ringCnt - 1 }
    exact answers_next.2 ⟨⟨hstore.sent, hstore.calls⟩, hstore.environment, hstore.session⟩
  · exact answers_next.2 .silent
  · exact answers_next.2 (.calling (.inl rfl) rfl)
  · exact answers_fault _

theorem rxCheck_effect (s : State) : Answers (Effect s) (rxCheck s) := by
  unfold rxCheck
  split
  · exact answers_fault _
  · refine answers_next.2 ?_
    split <;> exact .silent

/-- A turn of the `receive` in progress (R131). -/
theorem rxStep_effect (s : State) : Answers (Effect s) (rxStep s) := by
  unfold rxStep
  split
  · exact answers_next.2 .silent
  · exact rxTag_effect s
  · exact rxBody_effect s
  · exact rxCheck_effect s

/-- What a selection chose is a branch, so no `reset`. -/
theorem runSelected_effect {r : Except Fault Instr} (hr : ∀ i, r = .ok i → isBranch i = true) (s : State) :
    Answers (Effect s) (runSelected r s) := by
  cases r with
  | error f => exact answers_fault f
  | ok i => exact exec_effect (fun hi => by simpa [hi, isBranch] using hr i rfl) s

theorem copyByte_effect (i : Nat) (s : State) : Answers (Effect s) (copyByte i s) := fun t ht => by
  obtain ⟨b, base, _, _, _, rfl⟩ := copyByte_next ht
  unfold afterCopied
  split
  · exact .calling (ts := [.copy (i + 1)]) (.inl rfl) rfl
  · exact .calling (ts := [.call .phaseBStep]) (.inl rfl) rfl

/-- The tasks that do not change the phase by themselves. -/
theorem runTask_effect {u : Task} (hr : u ≠ .call .reset) (hb : u ≠ .enterB) (hc : u ≠ .enterC) (s : State) :
    Answers (Effect s) (runTask u s) := by
  cases u with
  | call i => exact exec_effect (fun hi => hr (hi ▸ rfl)) s
  | readPoll => exact readTurn_effect s
  | rx => exact rxStep_effect s
  | dispatch => exact runSelected_effect (fun _ => isBranch_of_selectBranch) s
  | header => exact runSelected_effect (fun _ => isBranch_of_selectHeader) s
  | copy i => exact copyByte_effect i s
  | enterB => exact absurd rfl hb
  | enterC => exact absurd rfl hc

/-! ## Bytes sent and calls of `hw_init` -/

theorem runTask_output {u : Task} (hr : u ≠ .call .reset) (s : State) : Answers (Output s) (runTask u s) := by
  by_cases hb : u = .enterB
  · subst hb
    exact answers_next.2 ⟨.inl rfl, by simp⟩
  by_cases hc : u = .enterC
  · subst hc
    exact answers_next.2 ⟨.inl rfl, by simp⟩
  exact (runTask_effect hr hb hc s).mono fun _ h => h.toOutput

theorem coreMove_output (hr : ∀ ts, s.pending ≠ .call .reset :: ts) : Answers (Output s) (coreMove s) := by
  cases hpd : s.pending with
  | nil =>
    unfold coreMove
    rw [hpd]
    exact answers_next.2 ⟨.inl rfl, id⟩
  | cons u ts =>
    rw [coreMove_cons hpd]
    refine (runTask_output (fun hu => hr ts (hu ▸ hpd)) { s with pending := ts }).mono fun t h => ⟨h.sent, fun ht => ?_⟩
    rw [hpd]
    exact List.mem_cons_of_mem _ (h.calls ht)

/-- An arrival changes LINE and HWFIFO alone (R40). -/
theorem rxArrive_eq (lost : Nat) (s : State) :
    ∃ line fifo, rxArrive lost s = { s with line := line, hwfifo := fifo } := by
  unfold rxArrive
  split
  · exact ⟨_, _, rfl⟩
  split <;> exact ⟨_, _, rfl⟩

theorem playEvent_output {e : Event} (he : e ≠ .hostReset) (hr : ∀ ts, s.pending ≠ .call .reset :: ts) :
    Answers (Output s) (playEvent e s) := by
  have stays : Output s s := ⟨.inl rfl, id⟩
  have starts : ∀ dest, Answers (Output s) (exec (.start dest) s) := fun dest =>
    (exec_effect (i := .start dest) nofun s).mono fun _ h => h.toOutput
  cases e with
  | core => exact coreMove_output hr
  | service => exact answers_next.2 ⟨.inl rfl, id⟩
  | tick n => exact answers_next.2 ⟨.inl rfl, id⟩
  | peerSend b => exact answers_next.2 ⟨.inl rfl, id⟩
  | rxArrive lost =>
    obtain ⟨line, fifo, he⟩ := rxArrive_eq lost s
    rw [playEvent, he]
    exact answers_next.2 ⟨.inl rfl, id⟩
  | lineLose => exact answers_next.2 ⟨.inl rfl, id⟩
  | lineAlter b => exact answers_next.2 ⟨.inl rfl, id⟩
  | txReady v => exact answers_next.2 ⟨.inl rfl, id⟩
  | hostStart dest => exact answers_ite (fun _ => starts dest) fun _ => answers_next.2 stays
  | hostLoop dest =>
    refine answers_ite (fun _ => ?_) fun _ => answers_next.2 stays
    split
    · exact starts dest
    · exact answers_next.2 stays
  | hostReset => exact absurd rfl he
  | hostWrite a b =>
    exact answers_ite (fun _ => answers_next.2 ⟨.inl rfl, id⟩) fun _ => answers_next.2 stays

/-- A step other than a reset sends at most one byte and does not call `hw_init`. -/
theorem step_output (he : ∀ es, s.script ≠ .hostReset :: es) (hr : ∀ ts, s.pending ≠ .call .reset :: ts) :
    Answers (Output s) (step s) := by
  unfold step stepOnce
  split
  · exact coreMove_output hr
  · next e es hs =>
    have hplay := playEvent_output (s := { s with script := es }) (fun h => he es (h ▸ hs)) hr
    exact hplay.mono fun _ h => ⟨h.sent, h.calls⟩

/-! ## Moves of PHASE and RESULT -/

/-- Every instruction moves them as R33 says; `reset` is power-up (R192). -/
theorem exec_session (i : Instr) (s : State) :
    Answers (fun t => SessionMove s.phase s.result t.phase t.result) (exec i s) := by
  by_cases hi : i = .reset
  · subst hi
    exact answers_next.2 .powerUp
  · exact (exec_effect hi s).mono fun _ h => h.session

/-- Of the other tasks two change the phase by themselves (R154, R163). -/
theorem runTask_session {u : Task} (hb : u = .enterB → s.phase = .a) (hc : u = .enterC → s.phase = .b) :
    Answers (fun t => SessionMove s.phase s.result t.phase t.result) (runTask u s) := by
  cases u with
  | call i => exact exec_session i s
  | enterB => exact answers_next.2 (.enterB (hb rfl))
  | enterC => exact answers_next.2 (.enterC (hc rfl))
  | readPoll | rx | dispatch | header | copy =>
    refine (runTask_effect ?_ ?_ ?_ s).mono fun _ h => h.session <;> exact nofun

/-- Outside a `receive` the CORE stands at a position. -/
theorem Inv.standing (h : Inv s) {u : Task} {ts : List Task} (hpd : s.pending = u :: ts) (hu : u ≠ .rx) :
    Standing s (u :: ts) := by
  rcases h.control with ⟨_, _, hrx⟩ | ⟨_, hst⟩
  · rw [hpd] at hrx
    cases hrx
    exact absurd rfl hu
  · exact hpd ▸ hst

/-- Phase B is entered from Phase A. -/
theorem Inv.phase_of_enterB (h : Inv s) {ts : List Task} (hpd : s.pending = .enterB :: ts) : s.phase = .a := by
  cases h.standing hpd nofun with
  | enterB hp => exact hp

/-- Phase C is entered from Phase B. -/
theorem Inv.phase_of_enterC (h : Inv s) {ts : List Task} (hpd : s.pending = .enterC :: ts) : s.phase = .b := by
  cases h.standing hpd nofun with
  | enterC hp => exact hp

theorem coreMove_session (h : Inv s) :
    Answers (fun t => SessionMove s.phase s.result t.phase t.result) (coreMove s) := by
  cases hpd : s.pending with
  | nil =>
    unfold coreMove
    rw [hpd]
    exact answers_next.2 .same
  | cons u ts =>
    rw [coreMove_cons hpd]
    exact runTask_session (s := { s with pending := ts }) (fun hu => h.phase_of_enterB (hu ▸ hpd))
      fun hu => h.phase_of_enterC (hu ▸ hpd)

theorem playEvent_session (h : Inv s) (e : Event) :
    Answers (fun t => SessionMove s.phase s.result t.phase t.result) (playEvent e s) := by
  cases e with
  | core => exact coreMove_session h
  | service => exact answers_next.2 .same
  | tick n => exact answers_next.2 .same
  | peerSend b => exact answers_next.2 .same
  | rxArrive lost =>
    obtain ⟨line, fifo, he⟩ := rxArrive_eq lost s
    rw [playEvent, he]
    exact answers_next.2 .same
  | lineLose => exact answers_next.2 .same
  | lineAlter b => exact answers_next.2 .same
  | txReady v => exact answers_next.2 .same
  | hostStart dest => exact answers_ite (fun _ => exec_session _ s) fun _ => answers_next.2 .same
  | hostLoop dest =>
    refine answers_ite (fun _ => ?_) fun _ => answers_next.2 .same
    split
    · exact exec_session _ s
    · exact answers_next.2 .same
  | hostReset => exact answers_next.2 .powerUp
  | hostWrite a b => exact answers_ite (fun _ => answers_next.2 .same) fun _ => answers_next.2 .same

/-- Under the invariant a step moves PHASE and RESULT as R33 says. -/
theorem step_session (h : Inv s) : Answers (fun t => SessionMove s.phase s.result t.phase t.result) (step s) := by
  unfold step stepOnce
  split
  · exact coreMove_session h
  · next e es _ => exact playEvent_session (s := { s with script := es }) (h.still (h.dataOk.congr rfl) rfl rfl) e

end

/-- Settles O59: `reset` keeps LINE, parameters and script; every other instruction keeps the environment's fields. -/
theorem operationsLeaveTheEnvironmentAlone : Obligations.OperationsLeaveTheEnvironmentAlone := by
  intro i s t he
  by_cases hi : i = .reset
  · subst hi
    cases he
    exact ⟨rfl, rfl, rfl, fun hne => absurd rfl hne⟩
  · have henv := (exec_effect hi s t he).environment
    simp only [State.environment, Prod.mk.injEq] at henv
    obtain ⟨hline, hpar, hscript, hcounter, hready⟩ := henv
    exact ⟨hline, hpar, hscript, fun _ => ⟨hcounter, hready⟩⟩

/-- Settles O58: a step other than a reset sends at most one byte. -/
theorem transmitTraceOnlyGrows : Obligations.TransmitTraceOnlyGrows :=
  fun _ t he hr hstep => (step_output he hr t hstep).sent

/-- Settles O55: under the invariant PHASE and RESULT make one of the moves of R33. -/
theorem phaseMovesAsAllowed : Obligations.PhaseMovesAsAllowed :=
  ⟨rfl, fun _ t h hstep => .inl (step_session h t hstep).mayGo,
    fun _ t _ h hstep hne hn => (step_session h t hstep).success hne hn⟩

end Sys2Proof.Machine
end

section
/-! SUPPORT. Values: the deadline test across the wrap of the counter (R117), the CRC bit by bit (R101), the declared length
with bytes behind it (R83). -/

namespace Sys2Proof.Machine

/-! ## The deadline test -/

/-- Modulo the counter's range the start value does not matter to a difference. -/
theorem ofNat_sub_ofNat_wrapped (w start a b : Nat) :
    BitVec.ofNat w ((start + a) % 2 ^ w) - BitVec.ofNat w ((start + b) % 2 ^ w) =
      BitVec.ofNat w a - BitVec.ofNat w b := by
  have hmod : ∀ n, BitVec.ofNat w (n % 2 ^ w) = BitVec.ofNat w n := fun n => by
    apply BitVec.eq_of_toNat_eq
    simp
  rw [hmod, hmod, BitVec.ofNat_add, BitVec.ofNat_add, add_sub_add_left_eq_sub]

/-- A difference below half the range counts as passed. -/
theorem msb_ofNat_of_lt_half {w d : Nat} (hd : d < 2 ^ (w - 1)) : (BitVec.ofNat w d).msb = false := by
  have hle : 2 ^ (w - 1) ≤ 2 ^ w := Nat.pow_le_pow_right (by decide) (Nat.sub_le w 1)
  rw [BitVec.msb_eq_decide, BitVec.toNat_ofNat, Nat.mod_eq_of_lt (by omega)]
  simpa using hd

/-- The negative of a difference below half the range counts as not passed. -/
theorem msb_neg_ofNat_of_lt_half {w d : Nat} (hw : 0 < w) (hpos : 0 < d) (hd : d < 2 ^ (w - 1)) :
    (-BitVec.ofNat w d).msb = true := by
  have hhalf : 2 ^ w = 2 * 2 ^ (w - 1) := by rw [← Nat.pow_succ', Nat.succ_eq_add_one, Nat.sub_add_cancel hw]
  have hnat : (-BitVec.ofNat w d).toNat = 2 ^ w - d := by
    rw [BitVec.toNat_neg, BitVec.toNat_ofNat, Nat.mod_eq_of_lt (a := d) (by omega), Nat.mod_eq_of_lt (by omega)]
  rw [BitVec.msb_eq_decide, hnat, decide_eq_true_iff]
  omega

/-- Settles O18: the difference of the two counter values is that of the elapsed time and the timeout, which is below half
the range on either side. -/
theorem deadlineTestSurvivesWraparound : Obligations.DeadlineTestSurvivesWraparound := by
  intro w start timeout elapsed hw htimeout helapsed
  rw [expired, ofNat_sub_ofNat_wrapped]
  by_cases hle : timeout ≤ elapsed
  · obtain ⟨d, rfl⟩ := Nat.exists_eq_add_of_le hle
    rw [BitVec.ofNat_add, add_sub_cancel_left, msb_ofNat_of_lt_half (by omega)]
    simp
  · obtain ⟨d, rfl⟩ := Nat.exists_eq_add_of_lt (Nat.lt_of_not_le hle)
    rw [Nat.add_assoc, BitVec.ofNat_add, sub_add_cancel_left, msb_neg_ofNat_of_lt_half hw (by omega) (by omega)]
    simp

/-! ## The CRC, bit by bit -/

/-- One round of R101, by the top bit. -/
theorem crcRound_eq (c : Check) : crcRound c = if c.msb then (c <<< 1) ^^^ 0x1021#16 else c <<< 1 := by
  rw [crcRound, BitVec.msb_eq_getLsbD_last]
  rfl

theorem crcRounds_succ (n : Nat) (c : Check) : crcRounds (n + 1) c = crcRound (crcRounds n c) := by
  induction n generalizing c with
  | zero => rfl
  | succ n ih => exact ih (crcRound c)

theorem crcRounds_eq_repeat (n : Nat) (c : Check) : crcRounds n c = Nat.repeat crcRound n c := by
  induction n with
  | zero => rfl
  | succ n ih => rw [crcRounds_succ, ih, Nat.repeat]

/-! ## The declared length -/

theorem afterName_append {p rest : List Byte} (h : afterName p = some rest) (more : List Byte) :
    afterName (p ++ more) = some (rest ++ more) := by
  induction p with
  | nil => cases h
  | cons b p ih =>
    rw [afterName] at h
    rw [List.cons_append, afterName]
    split at h
    · next hb => cases h; rw [if_pos hb]
    · next hb => rw [if_neg hb]; exact ih h

/-- The digits end at their space, so what stands behind it is not read. -/
theorem decimalUpToSpace_append {limit n nd m : Nat} {p : List Byte} (h : decimalUpToSpace limit n nd p = some m)
    (more : List Byte) : decimalUpToSpace limit n nd (p ++ more) = some m := by
  induction p generalizing n nd with
  | nil => cases h
  | cons c p ih =>
    rw [decimalUpToSpace] at h
    rw [List.cons_append, decimalUpToSpace]
    split at h
    · next hc => rw [if_pos hc]; exact h
    next hc =>
    rw [if_neg hc]
    split at h
    · cases h
    next hd =>
    rw [if_neg hd]
    dsimp only at h ⊢
    split at h
    · cases h
    next hl =>
    rw [if_neg hl]
    exact ih h

/-- A length that the payload declares by itself stands, whatever follows. -/
theorem declaredLength_append {lenW n : Nat} {p : List Byte} (h : declaredLength lenW p = some n) (more : List Byte) :
    declaredLength lenW (p ++ more) = some n := by
  unfold declaredLength at h ⊢
  split at h
  · cases h
  · next rest hname =>
    rw [afterName_append hname]
    exact decimalUpToSpace_append h more

theorem execParseLen_within {p : List Byte} {size : Nat} (h : size ≤ p.length) (s : State) :
    execParseLen p size s = .next { s with ret := .length (declaredLength s.par.lenW (p.take size)) } := if_pos h

theorem execParseLen_beyond {p : List Byte} {size : Nat} (h : p.length < size) (s : State) :
    execParseLen p size s = .next
      { s with ret := .length (declaredLength s.par.lenW
                 (p ++ (List.range (size - p.length)).map (Config.freeByte s.free))), free := s.free + 1 } :=
  if_neg (Nat.not_le_of_lt h)

/-- Settles O10: the rounds repeat one round, which goes by the top bit; the free bytes come after the payload, whose own
length they leave. -/
theorem valueOperationsReturn : Obligations.ValueOperationsReturn := by
  refine ⟨fun _ _ => rfl, rfl, fun bytes b => crc16_append bytes [b], fun c b => ?_, fun s p size =>
    ⟨fun hle => execParseLen_within hle s, fun hlt => ⟨_, ?_, execParseLen_beyond hlt s, fun _ hn =>
      declaredLength_append hn _⟩⟩⟩
  · rw [crcStep, crcRounds_eq_repeat, funext crcRound_eq]
  · simp

end Sys2Proof.Machine
end

section
/-! SUPPORT. The ring's oldest byte is taken, and a body byte is stored (R112, R136). -/

namespace Sys2Proof.Machine

/-- With a byte stored that has a value, a pop takes it (R112). -/
theorem ringPop_stored {s : State} {b : Byte} (h : s.ringCnt ≠ 0) (hb : s.ring.read s.ringRd.toNat = some b) :
    ringPop s = .ok (some b, { s with ringRd := s.ringRd + 1, ringCnt := s.ringCnt - 1 }) := by
  rw [ringPop, if_neg h, hb]

theorem ringPop_noValue {s : State} (h : s.ringCnt ≠ 0) (hb : s.ring.read s.ringRd.toNat = none) :
    ringPop s = .error .ringNoValue := by
  rw [ringPop, if_neg h, hb]

/-- Settles O12: the three ways a pop ends. -/
theorem ringPopTakesTheOldest : Obligations.RingPopTakesTheOldest := by
  intro s
  refine ⟨fun h => ?_, fun b h hb => ?_, fun h hb => ?_⟩ <;> show execRingPop s = _ <;> rw [execRingPop]
  · rw [ringPop_empty h]
  · rw [ringPop_stored h hb]
  · rw [ringPop_noValue h hb]

/-- A body byte: PKT takes it, PKT_IDX moves on, and the position in the call goes by the index (R131, R136). -/
theorem storeBody_eq (b : Byte) (s : State) : ∃ deadline, storeBody b s =
    { s with pkt := s.pkt.write s.pktIdx.toNat b, pktIdx := s.pktIdx + 1, deadline := deadline,
             rxState := if s.pktIdx.toNat < s.pktSize.toNat + 4 then s.rxState else .check,
             pending := .rx :: s.pending } := by
  have hx : Config.bodyExtra = 4 := rfl
  unfold storeBody
  dsimp only
  rw [hx]
  split
  · exact ⟨_, rfl⟩
  · exact ⟨_, rfl⟩

/-- Settles O26: the turn takes the oldest byte and stores it. -/
theorem bodyBytesAreStoredInOrder : Obligations.BodyBytesAreStoredInOrder := by
  intro s s0 ts b bs hct hok hpd hx hi hb
  obtain ⟨r, w, c, u, hu, hpoll, _, hbytes⟩ := rx_poll (ts := ts) hok hb
  obtain ⟨deadline, hstore⟩ := storeBody_eq b u
  have hstep : step s = .next (storeBody b u) := by
    rw [coreTurn_step hct, coreMove_cons hpd]
    exact rxBody_byte (s := { s0 with pending := ts }) hx hi hpoll
  have hring : ringBytes (storeBody b u) = bs := by
    rw [hstore, ← hbytes]
    exact ringBytes_congr rfl rfl rfl
  have hsize := pktSize_toNat_cases s0.pktSize
  rw [hstore] at hstep hring
  subst hu
  refine ⟨_, hstep, read_write_same _ _ _, fun a ha => read_write_other _ _ ha, ?_, rfl, ?_, rfl, hring,
    rfl, rfl, rfl, rfl, rfl, rfl⟩
  · show (s0.pktIdx + 1).toNat = _
    rw [BitVec.toNat_add]
    simp
    omega
  · show (if s0.pktIdx.toNat < s0.pktSize.toNat + 4 then s0.rxState else .check) = _
    by_cases hlast : s0.pktIdx.toNat = s0.pktSize.toNat + 4
    · rw [if_neg (by omega), if_pos hlast]
    · rw [if_pos (by omega), if_neg hlast, hx]

end Sys2Proof.Machine
end

section
/-! SUPPORT. Power-up, the call of `hw_init`, and the start of a session (R191 to R197, R240). -/

namespace Sys2Proof.Machine

section
variable {s : State}

/-! ## Power-up -/

/-- Settles O52: after reset the buffers are empty, no `receive` and no session is in progress, and nothing is pending. -/
theorem resetMeetsTheInvariant : Obligations.ResetMeetsTheInvariant where
  memory := reset_memoryOk
  widths := reset_widthsOk
  ring := ⟨Nat.zero_le _, rfl, fun _ hk => absurd hk (Nat.not_lt_zero _)⟩
  fifo := Nat.zero_le _
  receiver := ⟨Nat.zero_le _, nofun, nofun⟩
  session := .of_idle rfl
  control := .inr ⟨rfl, .rest rfl⟩

/-- After power-up the one call of `hw_init` runs next. -/
theorem runSteps_powerUp (hs : s.script = []) (ts : List Task) :
    runSteps 2 { s with pending := .call .reset :: ts } = .next (platformInit { powerUp s with pending := [] }) := by
  have hreset : step { s with pending := .call .reset :: ts } = .next (powerUp s) := step_of_pending hs _ _
  have hinit : step (powerUp s) = .next (platformInit { powerUp s with pending := [] }) :=
    step_of_pending (s := powerUp s) hs _ _
  exact runSteps_succ (k := 1) (runSteps_succ (k := 0) rfl hreset) hinit

/-- Where `hw_init` is pending it stands alone, before any session. -/
theorem Standing.platform_of_mem {ts : List Task} (hs : Standing s ts) (hm : .call .hwInit ∈ ts) :
    ts = [.call .hwInit] ∧ s.phase = .idle ∧ s.destRef = none ∧ s.handed = [] := by
  induction hs with
  | platform hp hd hh => exact ⟨rfl, hp, hd, hh⟩
  | quiet i ts hq hp _ ih =>
    rcases List.mem_cons.1 hm with he | hm
    · cases he; cases hq
    · exact absurd (ih hm).2.1 hp
  | branch i _ hsel =>
    have hb := isBranch_of_selected hsel
    cases List.mem_singleton.1 hm
    cases hb
  | _ => simp at hm

theorem Inv.platform_of_mem (h : Inv s) (hm : .call .hwInit ∈ s.pending) :
    s.pending = [.call .hwInit] ∧ s.phase = .idle ∧ s.destRef = none ∧ s.handed = [] := by
  rcases h.control with ⟨_, _, hrx⟩ | ⟨_, hst⟩
  · rw [hrx] at hm
    simp at hm
  · exact hst.platform_of_mem hm

/-- `hw_init` comes to be pending by a reset alone (R191, R240). -/
theorem hwInit_called_by_reset {t : State} (hstep : step s = .next t) (hm : .call .hwInit ∈ t.pending) :
    .call .hwInit ∈ s.pending ∨ (∃ es, s.script = .hostReset :: es) ∨ ∃ ts, s.pending = .call .reset :: ts := by
  by_cases he : ∃ es, s.script = .hostReset :: es
  · exact .inr (.inl he)
  by_cases hr : ∃ ts, s.pending = .call .reset :: ts
  · exact .inr (.inr hr)
  exact .inl ((step_output (fun es h => he ⟨es, h⟩) (fun ts h => hr ⟨ts, h⟩) t hstep).calls hm)

/-! ## The start of a session -/

theorem hostTurn_eq_true : hostTurn s = true ↔ s.phase = .idle ∧ s.pending = [] := by
  simp [hostTurn]

theorem topLevelMove_after_failure {h : List SessionResult} (hh : h = [] ∨ ∃ rs, h = rs ++ [.failure]) :
    topLevelMove h = .receive := by
  rcases hh with rfl | ⟨rs, rfl⟩ <;> simp [topLevelMove]

theorem topLevelMove_after_success (rs : List SessionResult) (n : Nat) :
    topLevelMove (rs ++ [.success n]) = .leave n := by
  simp [topLevelMove]

/-- At rest the loop starts a session (R197). -/
theorem topLevelStep_receive (hp : s.phase = .idle) (hpd : s.pending = []) (hm : topLevelMove s.handed = .receive)
    (d : Nat) : topLevelStep d s = exec (.start d) s := by
  rw [topLevelStep, if_pos (hostTurn_eq_true.2 ⟨hp, hpd⟩), hm]

/-- At rest the loop has left (R197). -/
theorem topLevelStep_leave {n : Nat} (hm : topLevelMove s.handed = .leave n) (d : Nat) :
    topLevelStep d s = .next s := by
  rw [topLevelStep, hm]
  exact ite_self _

/-- While a session runs the loop waits (R198). -/
theorem topLevelStep_wait (h : s.phase ≠ .idle ∨ s.pending ≠ []) (d : Nat) : topLevelStep d s = .next s :=
  if_neg fun ht => h.elim (absurd (hostTurn_eq_true.1 ht).1) (absurd (hostTurn_eq_true.1 ht).2)

theorem step_hostLoop {d : Nat} {es : List Event} (hs : s.script = .hostLoop d :: es) :
    step s = topLevelStep d { s with script := es } := by
  rw [step, stepOnce, hs]
  rfl

end

/-- Settles O51: the table's values stand in the definitions; that `hw_init` is called by a reset alone is what every step
leaves pending, and that it stands alone is a position of the CORE. -/
theorem powerUpValues : Obligations.PowerUpValues := by
  refine ⟨fun s => ⟨rfl, ⟨powerUp s, rfl, rfl, rfl, rfl, rfl, rfl⟩, fun ts hs => ?_⟩,
    fun _ _ => hwInit_called_by_reset, fun _ => Inv.platform_of_mem,
    rfl, rfl, rfl, rfl, rfl, rfl, rfl, rfl, rfl, rfl, rfl, rfl⟩
  rw [runSteps_powerUp hs, powerUp, hs]
  rfl

/-- Settles O50: `start` is judged by PHASE, the loop's move by whether the HOST can move and by the last result. -/
theorem startBeginsASession : Obligations.StartBeginsASession := by
  refine ⟨fun s d => ⟨fun hp => ⟨_, if_pos hp, rfl⟩, fun hp => if_neg hp⟩, fun s d es hs => ?_, rfl⟩
  rw [step_hostLoop hs]
  refine ⟨fun hp hpd hh => ?_, fun _ _ ⟨rs, n, hh⟩ => ?_, fun h => ?_⟩
  · exact topLevelStep_receive (s := { s with script := es }) hp hpd (topLevelMove_after_failure hh) d
  · have hm : topLevelMove s.handed = .leave n := hh ▸ topLevelMove_after_success rs n
    exact topLevelStep_leave (s := { s with script := es }) hm d
  · exact topLevelStep_wait (s := { s with script := es }) h d

end Sys2Proof.Machine
end

section
/-! SUPPORT. What the CORE fetches, and what an operation of the Byte Receiver does to the ring seen as a FIFO
(R61, R63, R111 to R121). -/

namespace Sys2Proof.Machine

/-! ## Fetching -/

/-- With nothing pending the CORE does nothing (R242). -/
theorem coreMove_nil {s : State} (h : s.pending = []) : coreMove s = .next s := by
  unfold coreMove
  rw [h]

/-- A selection that chose `i` runs `i`. -/
theorem runSelected_ok {s : State} {r : Except Fault Instr} {i : Instr} (h : r = .ok i) :
    runSelected r s = exec i s := by
  rw [h]
  rfl

/-- Settles O1: the step is the CORE's move, which takes the next task off; each task's equation says what it runs. -/
theorem stepRunsWhatItFetches : Obligations.StepRunsWhatItFetches := by
  intro s s0 hct
  rw [coreTurn_step hct]
  refine ⟨fun ts b u hpd hx hpoll => ?_, fun ts i hpd => ?_, fun ts i hpd hsel => ?_, fun ts i hpd hsel => ?_,
    coreMove_nil⟩ <;> rw [coreMove_cons hpd]
  · exact rxTag_byte (s := { s0 with pending := ts }) hx hpoll
  · rfl
  · exact runSelected_ok hsel
  · exact runSelected_ok hsel

/-- Outside the leading-byte position a TAG row stops (R69, R131). -/
theorem inTagPosition_fault {s : State} (h : s.rxState ≠ .tag) (k : State → State) :
    inTagPosition k s = .fault .notLeadingPosition := if_neg h

/-- Settles O25: each of the five TAG rows acts in the leading-byte position only. -/
theorem tagsOnlyInLeadingPosition : Obligations.TagsOnlyInLeadingPosition := by
  intro s b hx i hi
  simp only [List.mem_cons, List.not_mem_nil, or_false] at hi
  rcases hi with rfl | rfl | rfl | rfl | rfl <;> exact inTagPosition_fault hx _

/-! ## Writing -/

/-- A control byte of R90 is one call of `write_byte` (R119). -/
theorem exec_write {i : Instr} {b : Byte} (s : State)
    (h : (i, b) ∈ [(.ack, 0x06#8), (.nak, 0x15#8), (.crq, 0x43#8), (.canTx, 0x18#8), (.bs, 0x08#8), (.writeByte b, b)]) :
    exec i s = writeThen b i .next s := by
  simp only [List.mem_cons, List.not_mem_nil, or_false, Prod.mk.injEq] at h
  rcases h with ⟨rfl, rfl⟩ | ⟨rfl, rfl⟩ | ⟨rfl, rfl⟩ | ⟨rfl, rfl⟩ | ⟨rfl, rfl⟩ | ⟨rfl, _⟩ <;> rfl

/-- Settles O19: each of the six is a call of `write_byte`, which sends or waits. -/
theorem writesSendOrWait : Obligations.WritesSendOrWait := by
  intro s i b hi
  rw [exec_write s hi]
  exact ⟨fun hr => writeThen_ready hr _ _ _, fun hr => writeThen_wait hr _ _ _⟩

/-! ## The ring -/

/-- A pop returns what it found (R112). -/
theorem exec_ringPop {s t : State} {r : Option Byte} (h : ringPop s = .ok (r, t)) :
    exec .ringPop s = .next { t with ret := .byte r } := by
  show execRingPop s = _
  rw [execRingPop, h]

/-- Settles O13: a push appends or drops, a pop takes the oldest. -/
theorem ringIsAFifo : Obligations.RingIsAFifo := by
  intro s h
  refine ⟨fun b t ht => ?_, fun b bs hb => ?_, fun hb => exec_ringPop (ringPop_empty (ringBytes_nil.1 hb))⟩
  · cases ht
    rw [ringBytes_length]
    exact ⟨ringPush_ok h b, ringBytes_push h b⟩
  · obtain ⟨hpop, hok, hbytes⟩ := ringPop_spec h hb
    refine ⟨_, exec_ringPop hpop, rfl, hok.congr rfl rfl rfl rfl, ?_⟩
    rw [← hbytes]
    exact ringBytes_congr rfl rfl rfl

/-- Settles O14: a service pass puts HWFIFO's bytes into the ring one after the other. -/
theorem serviceRxDrainsTheFifo : Obligations.ServiceRxDrainsTheFifo :=
  fun s h => ⟨serviceRx s, rfl, rfl, serviceRx_ok h, ringBytes_service h, putAll_frame s.hwfifo s.ringIn⟩

/-- With the count 0 and equal cursors the ring is in form (R25). -/
theorem ringOk_of_empty {s : State} (hwr : s.ringWr = s.ringRd) (hcnt : s.ringCnt = 0) : RingOk s where
  count := by simp [hcnt]
  cursors := by simp [hwr, hcnt]
  stored := by simp [hcnt]

/-- Settles O15: the discard sets the count to 0 and the read cursor to the write cursor. -/
theorem discardInputEmptiesBoth : Obligations.DiscardInputEmptiesBoth :=
  fun s => ⟨discardInput s, rfl, rfl, ringBytes_nil.2 rfl, fun _ => ringOk_of_empty rfl rfl⟩

/-- Settles O16: the turn of the read takes the oldest byte before it looks at the deadline. -/
theorem readByteReturnsTheOldest : Obligations.ReadByteReturnsTheOldest := by
  intro s timeout b bs h hb
  have hstart : RingOk (startRead timeout s) := h.congr rfl rfl rfl rfl
  have hbytes : ringBytes (startRead timeout s) = ringBytes s := ringBytes_congr rfl rfl rfl
  have hpending : (ringBytes (startRead timeout s) ++ s.hwfifo).take 4096 = b :: bs.take 4095 := by
    rw [hbytes, hb, List.take_succ_cons]
  obtain ⟨r, w, c, t, rfl, hpoll, hok, ht⟩ := rx_poll (ts := s.pending) hstart hpending
  refine ⟨_, readTurn_byte hpoll, rfl, hok.congr rfl rfl rfl rfl, ?_⟩
  rw [← ht]
  exact ringBytes_congr rfl rfl rfl

end Sys2Proof.Machine
end

section
/-! SUPPORT. What one turn of a `receive` in progress leaves unchanged (R144, R145). -/

namespace Sys2Proof.Machine

/-- Outside the Packet Receiver: TXLOG, LINE, the HOST's memory, PHASE, RESULT, and what holds the unread bytes, HWFIFO and
the read side of the ring. -/
def State.outsideReceiver (s : State) :
    List Byte × List Byte × Memory × Phase × Option SessionResult × List Byte × Memory × BitVec 12 × BitVec 13 :=
  (s.txlog, s.line, s.dest, s.phase, s.result, s.hwfifo, s.ring, s.ringRd, s.ringCnt)

/-- The bytes received and not yet read, oldest first (R61, R63). -/
def unreadBytes (s : State) : List Byte := ringBytes s ++ s.hwfifo

/-- A turn of a `receive`: nothing is sent, the session is not touched, and the unread bytes stay, or are cut at the ring's
4096 and lose the oldest. -/
structure ReceiveTurn (s t : State) : Prop where
  txlog : t.txlog = s.txlog
  line : t.line = s.line
  dest : t.dest = s.dest
  phase : t.phase = s.phase
  result : t.result = s.result
  unread : unreadBytes t = unreadBytes s ∨ unreadBytes t = ((unreadBytes s).take 4096).tail

section
variable {s t u : State}

theorem unreadBytes_congr (he : t.outsideReceiver = s.outsideReceiver) : unreadBytes t = unreadBytes s := by
  simp only [State.outsideReceiver, Prod.mk.injEq] at he
  obtain ⟨_, _, _, _, _, hfifo, hring, hrd, hcnt⟩ := he
  rw [unreadBytes, unreadBytes, ringBytes_congr hring hrd hcnt, hfifo]

/-- After a turn the receiver may change its own registers. -/
theorem ReceiveTurn.then_receiver (h : ReceiveTurn s u) (he : t.outsideReceiver = u.outsideReceiver) :
    ReceiveTurn s t := by
  have hunread := unreadBytes_congr he
  simp only [State.outsideReceiver, Prod.mk.injEq] at he
  obtain ⟨htx, hline, hdest, hphase, hresult, _⟩ := he
  exact ⟨htx.trans h.txlog, hline.trans h.line, hdest.trans h.dest, hphase.trans h.phase, hresult.trans h.result,
    hunread ▸ h.unread⟩

theorem ReceiveTurn.refl (s : State) : ReceiveTurn s s := ⟨rfl, rfl, rfl, rfl, rfl, .inl rfl⟩

theorem ReceiveTurn.of_receiver (he : t.outsideReceiver = s.outsideReceiver) : ReceiveTurn s t :=
  (ReceiveTurn.refl s).then_receiver he

/-! ## The receiver's own operations -/

theorem cancelByte_outsideReceiver (s : State) : (cancelByte s).outsideReceiver = s.outsideReceiver := by
  unfold cancelByte
  split <;> rfl

theorem storeBody_outsideReceiver (b : Byte) (s : State) : (storeBody b s).outsideReceiver = s.outsideReceiver := by
  obtain ⟨deadline, h⟩ := storeBody_eq b s
  rw [h]
  rfl

/-- What a leading byte runs changes the receiver's registers alone (R132 to R137). -/
theorem leading_outsideReceiver (b : Byte) (s : State) :
    Answers (·.outsideReceiver = s.outsideReceiver) (exec (decodeLeading b) s) := by
  rcases decodeLeading_cases b with h | h | h | h | h <;> rw [h]
  · exact answers_inTagPosition fun _ => rfl
  · exact answers_inTagPosition fun _ => rfl
  · exact answers_inTagPosition fun _ => rfl
  · exact answers_inTagPosition fun _ => cancelByte_outsideReceiver s
  · exact answers_inTagPosition fun _ => rfl

/-- The validation changes the receiver's registers alone (R140 to R143). -/
theorem rxCheck_outsideReceiver (s : State) : Answers (·.outsideReceiver = s.outsideReceiver) (rxCheck s) := by
  unfold rxCheck
  split
  · exact answers_fault _
  · refine answers_next.2 ?_
    split <;> rfl

/-! ## The turn -/

/-- A turn of a read takes the oldest unread byte, or finds none and changes nothing (R113, R116). -/
theorem pollRead_turn (h : RingOk s) :
    (∃ b u, pollRead s = .byte b u ∧ ReceiveTurn s u) ∨ pollRead s = .none s ∨ pollRead s = .waiting s := by
  rcases pollRead_spec h with ⟨b, bs, hb, u, hu, hpoll, _, hbytes⟩ | ⟨_, hfifo, _, hpoll⟩
  · have hfifo : u.hwfifo = [] := by rw [hu]; rfl
    have hunread : unreadBytes u = ((unreadBytes s).take 4096).tail := by
      rw [unreadBytes, hfifo, List.append_nil, hbytes]
      exact (congrArg List.tail hb).symm
    subst hu
    exact .inl ⟨b, _, hpoll, rfl, rfl, rfl, rfl, rfl, .inr hunread⟩
  · rw [hpoll, serviceRx_idle hfifo]
    split
    · exact .inr (.inl rfl)
    · exact .inr (.inr rfl)

theorem rxTag_turn (h : RingOk s) : Answers (ReceiveTurn s) (rxTag s) := by
  unfold rxTag
  rcases pollRead_turn h with ⟨b, u, hpoll, hu⟩ | hpoll | hpoll <;> rw [hpoll]
  · exact (leading_outsideReceiver b u).mono fun _ he => hu.then_receiver he
  · exact answers_next.2 (.of_receiver rfl)
  · exact answers_next.2 (.of_receiver rfl)

theorem rxBody_turn (h : RingOk s) : Answers (ReceiveTurn s) (rxBody s) := by
  refine answers_ite (fun _ => ?_) fun _ => answers_next.2 (.of_receiver rfl)
  rcases pollRead_turn h with ⟨b, u, hpoll, hu⟩ | hpoll | hpoll <;> rw [hpoll]
  · exact answers_next.2 (hu.then_receiver (storeBody_outsideReceiver b u))
  · exact answers_next.2 (.of_receiver rfl)
  · exact answers_next.2 (.of_receiver rfl)

/-- The `receive` in progress goes on, whatever RX_STATE is (R131). -/
theorem rxStep_turn (h : RingOk s) : Answers (ReceiveTurn s) (rxStep s) := by
  unfold rxStep
  split
  · exact answers_next.2 (.refl s)
  · exact rxTag_turn h
  · exact rxBody_turn h
  · exact (rxCheck_outsideReceiver s).mono fun _ => .of_receiver

end

/-- Settles O30: the step is a turn of the `receive` in progress. -/
theorem receiveNeitherSendsNorDiscards : Obligations.ReceiveNeitherSendsNorDiscards := by
  intro s s0 t ts hct h hpd hstep
  rw [coreTurn_step hct, coreMove_cons hpd] at hstep
  have hring : RingOk { s0 with pending := ts } := h.congr rfl rfl rfl rfl
  have hunread : unreadBytes { s0 with pending := ts } = unreadBytes s0 := unreadBytes_congr rfl
  obtain ⟨htx, hline, hdest, hphase, _, hleft⟩ := rxStep_turn hring t hstep
  rw [hunread] at hleft
  exact ⟨htx, hline, hdest, hphase, hleft⟩

end Sys2Proof.Machine
end

section
/-! SUPPORT. The declared length of a header: name, NUL, digits, space (R82, R83). -/

namespace Sys2Proof.Machine

/-- A decimal digit put behind a number (R54). -/
def appendDigit (n : Nat) (c : Byte) : Nat := n * 10 + (c.toNat - 0x30)

theorem decimalValue_eq_foldl (digits : List Byte) : decimalValue digits = digits.foldl appendDigit 0 := rfl

/-- More digits make no number smaller. -/
theorem le_foldl_appendDigit (n : Nat) (digits : List Byte) : n ≤ digits.foldl appendDigit n := by
  induction digits generalizing n with
  | nil => exact Nat.le_refl n
  | cons c digits ih =>
    have hstep : n ≤ appendDigit n c := by
      unfold appendDigit
      omega
    exact Nat.le_trans hstep (ih _)

/-- The name ends at its NUL (R83). -/
theorem afterName_of_name {name : List Byte} (h : 0x00#8 ∉ name) (rest : List Byte) :
    afterName (name ++ 0x00#8 :: rest) = some rest := by
  induction name with
  | nil => exact if_pos rfl
  | cons b name ih =>
    simp only [List.mem_cons, not_or] at h
    obtain ⟨hb, hname⟩ := h
    rw [List.cons_append, afterName]
    exact (if_neg (Ne.symm hb)).trans (ih hname)

/-- A digit below the limit is taken into the number. -/
theorem decimalUpToSpace_digit {limit n nd : Nat} {c : Byte} (hlo : 0x30#8 ≤ c) (hhi : c ≤ 0x39#8)
    (hlimit : appendDigit n c < limit) (cs : List Byte) :
    decimalUpToSpace limit n nd (c :: cs) = decimalUpToSpace limit (appendDigit n c) (nd + 1) cs := by
  have hspace : c ≠ Config.byteSpace := by
    rintro rfl
    exact absurd hlo (by decide)
  have hdigit : ¬ (c < Config.byteDigit0 ∨ Config.byteDigit9 < c) :=
    not_or.2 ⟨BitVec.not_lt.2 hlo, BitVec.not_lt.2 hhi⟩
  rw [decimalUpToSpace, if_neg hspace, if_neg hdigit]
  exact if_neg (Nat.not_le_of_lt hlimit)

/-- The digits up to the space make the number they write, as long as it stays below the limit (R83). -/
theorem decimalUpToSpace_digits {limit : Nat} (digits rest : List Byte) {n nd : Nat}
    (hdigits : ∀ c ∈ digits, 0x30#8 ≤ c ∧ c ≤ 0x39#8) (hsome : nd ≠ 0 ∨ digits ≠ [])
    (hlimit : digits.foldl appendDigit n < limit) :
    decimalUpToSpace limit n nd (digits ++ 0x20#8 :: rest) = some (digits.foldl appendDigit n) := by
  induction digits generalizing n nd with
  | nil =>
    have hnd : nd ≠ 0 := hsome.resolve_right (absurd rfl)
    rw [List.nil_append, decimalUpToSpace, if_pos (by rfl), if_neg hnd]
    rfl
  | cons c digits ih =>
    obtain ⟨hlo, hhi⟩ := hdigits c List.mem_cons_self
    have hc : appendDigit n c < limit := Nat.lt_of_le_of_lt (le_foldl_appendDigit _ digits) hlimit
    rw [List.cons_append, decimalUpToSpace_digit hlo hhi hc]
    exact ih (fun d hd => hdigits d (List.mem_cons_of_mem _ hd)) (.inl (Nat.succ_ne_zero nd)) hlimit

/-- Settles O33: the name is skipped, and the digits make their number. -/
theorem wellFormedHeaderLength : Obligations.WellFormedHeaderLength := by
  intro lenW name digits rest hname hne hdigits hlimit
  rw [decimalValue_eq_foldl] at hlimit ⊢
  rw [List.append_assoc, List.cons_append, declaredLength, afterName_of_name hname]
  exact decimalUpToSpace_digits digits rest hdigits (.inr hne) hlimit

end Sys2Proof.Machine
end

section
/-! SUPPORT. A success that a step records is one with TOTAL (R71, R172). -/

namespace Sys2Proof.Machine

/-- A success newly recorded is one with TOTAL. -/
def RecordsTotal (s t : State) : Prop := ∀ n, t.result = some (.success n) → t.result = s.result ∨ s.total = some n

section
variable {s t : State}

theorem RecordsTotal.same (h : t.result = s.result) : RecordsTotal s t := fun _ _ => .inl h

theorem RecordsTotal.noSuccess (h : ∀ n, t.result ≠ some (.success n)) : RecordsTotal s t := fun n hn => absurd hn (h n)

/-- Operations that touch neither the receiver nor the session keep RESULT. -/
theorem quiet_result {i : Instr} (hq : isQuiet i = true) : Answers (·.result = s.result) (exec i s) := by
  match i, hq with
  | .crq, _ | .canTx, _ | .bs, _ | .writeByte _, _ => exact answers_writeThen rfl (answers_next.2 rfl)
  | .abortSeq, _ | .abortProcedure, _ | .report _, _ | .discardInput, _ => exact answers_next.2 rfl

/-! ## The branches of Phase C -/

/-- A branch that goes through the abort procedure records nothing yet. -/
theorem abortAndFail_recordsTotal (s : State) (c : FailCause) : Answers (RecordsTotal s) (abortAndFail c s) :=
  answers_next.2 (.same rfl)

theorem failSession_recordsTotal (s : State) (c : FailCause) :
    Answers (RecordsTotal s) (.next (failSession c s)) :=
  answers_next.2 (.noSuccess nofun)

/-- The branch that ends a transfer records TOTAL, once its ACK is sent (R172). -/
theorem cEndOfTransfer_recordsTotal (s : State) : Answers (RecordsTotal s) (exec .cEndOfTransfer s) :=
  answers_onBranch fun _ _ => answers_withTotal fun n hn => answers_writeThen (.same rfl)
    (answers_next.2 fun m hm => .inr (by cases hm; exact hn))

/-- The branch that the dispatch selects in Phase C (R172 to R177). -/
theorem phaseC_recordsTotal (hp : s.phase = .c) :
    ∃ i, selectBranch s = .ok i ∧ Answers (RecordsTotal s) (exec i s) := by
  have aborts := abortAndFail_recordsTotal s
  have fails := failSession_recordsTotal s
  cases ho : s.outcome with
  | ok =>
    exact ⟨.cOk, by simp [selectBranch, hp, ho],
      answers_onBranch fun _ _ => answers_ite (fun _ => aborts _) fun _ => fails _⟩
  | endOfTransfer => exact ⟨.cEndOfTransfer, by simp [selectBranch, hp, ho], cEndOfTransfer_recordsTotal s⟩
  | abort => exact ⟨.cAbort, by simp [selectBranch, hp, ho], answers_onBranch fun _ _ => fails _⟩
  | protocolError => exact ⟨.cProtocolError, by simp [selectBranch, hp, ho], answers_onBranch fun _ _ => aborts _⟩
  | timeout => exact ⟨.cTimeout, by simp [selectBranch, hp, ho], answers_onBranch fun _ _ => aborts _⟩

/-- In Phase C no other branch is selected. -/
theorem selected_recordsTotal (hp : s.phase = .c) {i : Instr} (hs : selected s i) :
    Answers (RecordsTotal s) (exec i s) := by
  obtain ⟨j, hj, hrec⟩ := phaseC_recordsTotal hp
  rcases hs with hi | ⟨hheader, _⟩
  · rw [hj] at hi
    cases hi
    exact hrec
  · exact absurd (hp.symm.trans (header_of_selectBranch hheader).1) nofun

/-! ## Every step in Phase C -/

/-- The task that stands next in Phase C, taken off. -/
theorem runTask_recordsTotal (hp : s.phase = .c) {u : Task} {ts : List Task} (hs : Standing s (u :: ts)) :
    Answers (RecordsTotal s) (runTask u s) := by
  have phase_eq_c {p : Phase} (hq : s.phase = p) : p = .c := hq.symm.trans hp
  cases hs with
  | quiet i _ hq => exact (quiet_result hq).mono fun _ => .same
  | failing c hne => exact answers_ite (absurd · hne) fun _ => failSession_recordsTotal s c
  | termStep =>
    exact answers_ite (fun _ => answers_ite (fun _ => answers_next.2 (.same rfl)) fun _ => answers_fault _)
      fun _ => answers_fault _
  | dispatch =>
    obtain ⟨i, hi, hrec⟩ := phaseC_recordsTotal hp
    show Answers _ (runSelected (selectBranch s) s)
    rw [runSelected_ok hi]
    exact hrec
  | branch i _ hsel => exact selected_recordsTotal hp hsel
  | platform hq | handOver hq | attempt hq | handshake _ hq | dataStep hq | enterB hq | enterC hq | copy _ _ hq =>
    exact absurd (phase_eq_c hq) nofun
  | parse _ _ _ hsel | header _ hsel => exact absurd (phase_eq_c (header_of_selectBranch hsel).1) nofun

theorem coreMove_recordsTotal (h : Inv s) (hp : s.phase = .c) : Answers (RecordsTotal s) (coreMove s) := by
  cases hpd : s.pending with
  | nil =>
    rw [coreMove_nil hpd]
    exact answers_next.2 (.same rfl)
  | cons u ts =>
    rw [coreMove_cons hpd]
    by_cases hu : u = .rx
    · subst hu
      have hring : RingOk { s with pending := ts } := h.ring.congr rfl rfl rfl rfl
      exact (rxStep_turn hring).mono fun _ hturn => .same hturn.result
    · have hpos : SamePosition s { s with pending := ts } := .of_part rfl
      exact runTask_recordsTotal (s := { s with pending := ts }) hp ((h.standing hpd hu).congr hpos)

/-- A session that starts has no result yet (R195). -/
theorem start_recordsTotal (dest : Nat) (s : State) : Answers (RecordsTotal s) (exec (.start dest) s) :=
  answers_ite (fun _ => answers_next.2 (.noSuccess nofun)) fun _ => answers_next.2 (.same rfl)

theorem playEvent_recordsTotal (h : Inv s) (hp : s.phase = .c) (e : Event) :
    Answers (RecordsTotal s) (playEvent e s) := by
  have stays : Answers (RecordsTotal s) (.next s) := answers_next.2 (.same rfl)
  cases e with
  | core => exact coreMove_recordsTotal h hp
  | service | tick | peerSend | lineLose | lineAlter | txReady => exact answers_next.2 (.same rfl)
  | rxArrive lost =>
    obtain ⟨line, fifo, he⟩ := rxArrive_eq lost s
    rw [playEvent, he]
    exact answers_next.2 (.same rfl)
  | hostStart dest => exact answers_ite (fun _ => start_recordsTotal dest s) fun _ => stays
  | hostLoop dest =>
    refine answers_ite (fun _ => ?_) fun _ => stays
    split
    · exact start_recordsTotal dest s
    · exact stays
  | hostReset => exact answers_next.2 (.noSuccess nofun)
  | hostWrite => exact answers_ite (fun _ => answers_next.2 (.same rfl)) fun _ => stays

theorem step_recordsTotal (h : Inv s) (hp : s.phase = .c) : Answers (RecordsTotal s) (step s) := by
  unfold step stepOnce
  split
  · exact coreMove_recordsTotal h hp
  · next e es _ =>
    exact playEvent_recordsTotal (s := { s with script := es }) (h.still (h.dataOk.congr rfl) rfl rfl) hp e

end

/-- Settles O56: success comes from Phase C, where a step records no other success than TOTAL, and where the invariant has
TOTAL = RCVD within DEST_CAP, a multiple of 128. -/
theorem successMeansAllReceived : Obligations.SuccessMeansAllReceived := by
  intro s t n h hstep hne hn
  have hp : s.phase = .c := (step_session h t hstep).success hne hn
  have htotal : s.total = some n := (step_recordsTotal h hp t hstep n hn).resolve_left hne
  obtain ⟨hrcvd, hcap⟩ := h.session.termination hp
  have hall : s.rcvd = n := Option.some.inj (hrcvd.symm.trans htotal)
  exact ⟨htotal, hall, hall ▸ hcap, hall ▸ h.session.multiple (by simp [hp])⟩

end Sys2Proof.Machine
end

section
/-! SUPPORT. A received unit is read back from its bytes, and its layout by offset (R76 to R79, R88). -/

namespace Sys2Proof.Machine

/-- A check field is the two bytes it is sent as (R81). -/
theorem checkOfBytes_checkHi_checkLo (c : Check) : checkOfBytes (checkHi c) (checkLo c) = c := by
  apply BitVec.eq_of_getLsbD_eq
  intro i hi
  simp only [checkOfBytes, checkHi, checkLo, BitVec.getLsbD_append, BitVec.getLsbD_extractLsb']
  by_cases h8 : i < 8
  · simp [h8]
  · simp [h8, show i - 8 < 8 by omega, show 8 + (i - 8) = i by omega]

/-- With the payload of the size there, the two bytes behind it are the check field (R77, R88). -/
theorem decodeBody_fields {size : PktSize} {payload : List Byte} (h : payload.length = size.toNat)
    (seq cmpl hi lo : Byte) (rest : List Byte) :
    decodeBody size (seq :: cmpl :: (payload ++ hi :: lo :: rest)) =
      .ok (⟨size, seq, cmpl, payload, checkOfBytes hi lo⟩, rest) := by
  rw [decodeBody, ← h, List.drop_left, List.take_left]

/-- A body is read back from its bytes, whatever follows them (R77, R88). -/
theorem decodeBody_body {p : Packet} (h : p.wf = true) (rest : List Byte) :
    decodeBody p.size (p.body ++ rest) = .ok (p, rest) := by
  have hlen : p.payload.length = p.size.toNat := by simpa [Packet.wf] using h
  have hbytes : p.body ++ rest =
      p.seq :: p.cmpl :: (p.payload ++ checkHi p.crcField :: checkLo p.crcField :: rest) := by
    simp [Packet.body]
  rw [hbytes, decodeBody_fields hlen, checkOfBytes_checkHi_checkLo]

/-- The start tag alone says how long the unit is (R76, R88). -/
theorem decodeUnit_tag (size : PktSize) (bytes : List Byte) :
    decodeUnit (size.tag :: bytes) = (decodeBody size bytes).map fun r => (.packet r.1, r.2) := by
  cases size <;> rfl

/-- Settles O4: the leading byte selects the format, and the body of the format's size is read back. -/
theorem unitsDecodeAsEncoded : Obligations.UnitsDecodeAsEncoded := by
  intro u rest h
  cases u with
  | packet p =>
    rw [encodeUnit, List.cons_append, decodeUnit_tag, decodeBody_body h]
    rfl
  | eot => rfl
  | can => rfl

/-- Settles O5: the offsets of the fields in the list that `encodeUnit` writes. -/
theorem packetLayoutByOffset : Obligations.PacketLayoutByOffset := by
  intro size seq payload hlen
  refine ⟨_, rfl, _, rfl, ?_, ?_, rfl, rfl, fun i hi => ?_, ?_, ?_⟩
  · simp [encodeUnit, Packet.body, goodPacket, hlen]
  · cases size <;> rfl
  · simp [encodeUnit, Packet.body, goodPacket, hlen, hi, Nat.add_comm 3 i, List.getElem?_append]
  · simp [encodeUnit, Packet.body, goodPacket, hlen, checkHi, Nat.add_comm 3]
  · simp [encodeUnit, Packet.body, goodPacket, hlen, checkLo, Nat.add_comm 4]

end Sys2Proof.Machine
end

section
/-! SUPPORT. The check value of a message followed by two bytes (R81, R87, R103, R104, R107). -/

namespace Sys2Proof.Machine

/-- A round shifts the top bit out and the polynomial's lowest bit in (R101). -/
theorem crcRound_getLsbD_zero (c : Check) : (crcRound c).getLsbD 0 = c.getLsbD 15 := by
  unfold crcRound
  split <;> simp_all [Config.crcPoly]

/-- No two register values have the same next value: a round loses nothing. -/
theorem crcRound_injective : Function.Injective crcRound := by
  intro x y h
  have htop : x.getLsbD 15 = y.getLsbD 15 := by
    rw [← crcRound_getLsbD_zero, h, crcRound_getLsbD_zero]
  have hshift : x <<< 1 = y <<< 1 := by
    unfold crcRound at h
    rw [htop] at h
    split at h
    · exact (BitVec.xor_left_inj _).1 h
    · exact h
  apply BitVec.eq_of_getLsbD_eq
  intro i hi
  by_cases h15 : i = 15
  · exact h15 ▸ htop
  · have hbit := congrArg (·.getLsbD (i + 1)) hshift
    simpa only [BitVec.getLsbD_shiftLeft, show i + 1 < 16 by omega, Nat.add_sub_cancel, decide_true,
      Nat.not_lt.2 (Nat.le_add_left 1 i), decide_false, Bool.not_false, Bool.true_and] using hbit

theorem crcRounds_injective (n : Nat) : Function.Injective (crcRounds n) := by
  induction n with
  | zero => exact fun _ _ h => h
  | succ n ih => exact fun _ _ h => crcRound_injective (ih h)

/-- The byte that enters is XORed into the top byte, so different register values stay different. -/
theorem crcStep_left_injective (b : Byte) : Function.Injective (crcStep · b) :=
  fun _ _ h => (BitVec.xor_left_inj _).1 (crcRounds_injective 8 h)

/-- While the top bit is 0 the rounds shift (R101). -/
theorem crcRounds_shiftLeft (b : Byte) {n k : Nat} (h : k + n ≤ 8) :
    crcRounds n (b.setWidth 16 <<< k) = b.setWidth 16 <<< (k + n) := by
  induction n generalizing k with
  | zero => rfl
  | succ n ih =>
    have htop : (b.setWidth 16 <<< k).getLsbD 15 = false := by
      simp [show ¬ 15 < k by omega, BitVec.getLsbD_of_ge b (15 - k) (by omega)]
    have hround : crcRound (b.setWidth 16 <<< k) = b.setWidth 16 <<< (k + 1) := by
      rw [crcRound, htop, BitVec.shiftLeft_add]
      rfl
    rw [crcRounds, hround, ih (by omega), Nat.add_assoc, Nat.add_comm 1 n]

/-- The high byte of the register cancels, the low byte moves up (R101). -/
theorem crcStep_append (hi lo : Byte) : crcStep (hi ++ lo) hi = lo.setWidth 16 <<< 8 := by
  have hcancel : (hi ++ lo) ^^^ (hi.setWidth 16 <<< 8) = lo.setWidth 16 := by
    apply BitVec.eq_of_getLsbD_eq
    intro i hi'
    rw [BitVec.getLsbD_xor, BitVec.getLsbD_append, BitVec.getLsbD_shiftLeft, BitVec.getLsbD_setWidth,
      BitVec.getLsbD_setWidth]
    by_cases h8 : i < 8
    · simp [h8, hi']
    · simp [h8, hi', show i - 8 < 16 by omega, BitVec.getLsbD_of_ge lo i (by omega)]
  have hrounds := crcRounds_shiftLeft lo (n := 8) (k := 0) (by omega)
  rw [BitVec.shiftLeft_zero] at hrounds
  rw [crcStep, hcancel, hrounds]

/-- The one register value that a byte brings to zero. -/
theorem crcStep_eq_zero (c : Check) (b : Byte) : crcStep c b = 0 ↔ c = b.setWidth 16 <<< 8 := by
  have hzero : crcStep (b.setWidth 16 <<< 8) b = 0 := by
    rw [crcStep, BitVec.xor_self]
    rfl
  exact ⟨fun h => crcStep_left_injective b (h.trans hzero.symm), fun h => h ▸ hzero⟩

/-- Two bytes bring the check value to zero exactly where they are the check value (R104). -/
theorem crc16_append_pair_eq_zero (msg : List Byte) (hi lo : Byte) :
    crc16 (msg ++ [hi, lo]) = 0 ↔ crc16 msg = hi ++ lo := by
  rw [crc16_append]
  show crcStep (crcStep (crc16 msg) hi) lo = 0 ↔ _
  rw [crcStep_eq_zero, ← crcStep_append hi]
  exact (crcStep_left_injective hi).eq_iff

/-- From the register value zero, zero bytes lead to zero (R103). -/
theorem crc16_replicate_zero (n : Nat) : crc16 (List.replicate n 0x00#8) = 0 := by
  induction n with
  | zero => rfl
  | succ n ih => exact ih

/-! ## Packet bodies -/

/-- A body is Ok where its pair and its residue are right (R140, R141). -/
theorem classifyBody_eq_ok (body : List Byte) :
    classifyBody body = .ok ↔ pairValid (body.getD 0 0) (body.getD 1 0) = true ∧ crc16 body = 0 := by
  unfold classifyBody residueZero
  split <;> simp_all

/-- The pair is symmetric: each byte is the other's complement (R80). -/
theorem pairValid_iff (seq cmpl : Byte) : pairValid seq cmpl = true ↔ cmpl = seq ^^^ 0xFF#8 := by
  rw [pairValid, beq_iff_eq]
  constructor <;> rintro rfl <;> simp

/-- The residue of a body is zero where its check field is the check value (R81, R104). -/
theorem crc16_body_eq_zero (p : Packet) :
    crc16 p.body = 0 ↔ p.crcField = crc16 (p.seq :: p.cmpl :: p.payload) := by
  have hbody : p.body = (p.seq :: p.cmpl :: p.payload) ++ [checkHi p.crcField, checkLo p.crcField] := rfl
  rw [hbody, crc16_append_pair_eq_zero]
  show _ = checkOfBytes (checkHi p.crcField) (checkLo p.crcField) ↔ _
  rw [checkOfBytes_checkHi_checkLo, eq_comm]

theorem classifyBody_body_eq_ok (p : Packet) :
    classifyBody p.body = .ok ↔ p.cmpl = p.seq ^^^ 0xFF#8 ∧ p.crcField = crc16 (p.seq :: p.cmpl :: p.payload) := by
  rw [classifyBody_eq_ok, crc16_body_eq_zero, ← pairValid_iff]
  rfl

/-- A pair of zero bytes is broken, so a body that begins with it is never Ok (R107). -/
theorem classifyBody_replicate_zero (n : Nat) : classifyBody (List.replicate n 0x00#8) = .protocolError := by
  have hbyte (i : Nat) : (List.replicate n 0x00#8).getD i 0 = 0x00#8 := List.getElem?_getD_replicate_default_eq _ n i
  rw [classifyBody, hbyte, hbyte]
  rfl

/-- Settles O9: pair and residue decide; the residue is zero where the check field is the check value. -/
theorem onlyGoodBodiesAreOk : Obligations.OnlyGoodBodiesAreOk :=
  ⟨fun size seq payload => (classifyBody_body_eq_ok (goodPacket size seq payload)).2 ⟨rfl, rfl⟩,
    classifyBody_body_eq_ok, fun n => ⟨crc16_replicate_zero n, classifyBody_replicate_zero n⟩⟩

end Sys2Proof.Machine
end

section
/-! SUPPORT. What makes a header's length malformed (R83, D14). -/

namespace Sys2Proof.Machine

/-- Without a NUL the name has no end (R83). -/
theorem afterName_eq_none {name : List Byte} (h : 0x00#8 ∉ name) : afterName name = none := by
  induction name with
  | nil => rfl
  | cons b name ih =>
    simp only [List.mem_cons, not_or] at h
    obtain ⟨hb, hname⟩ := h
    rw [afterName]
    exact (if_neg (Ne.symm hb)).trans (ih hname)

/-- Behind the name and its NUL the digits are read (R83). -/
theorem declaredLength_of_name {name : List Byte} (h : 0x00#8 ∉ name) (lenW : Nat) (rest : List Byte) :
    declaredLength lenW (name ++ 0x00#8 :: rest) = decimalUpToSpace (2 ^ lenW) 0 0 rest := by
  rw [declaredLength, afterName_of_name h]

/-- A digit that brings the number to the limit makes the length malformed. -/
theorem decimalUpToSpace_overflow {limit n nd : Nat} {c : Byte} (hlo : 0x30#8 ≤ c) (hhi : c ≤ 0x39#8)
    (hlimit : limit ≤ appendDigit n c) (cs : List Byte) : decimalUpToSpace limit n nd (c :: cs) = none := by
  have hspace : c ≠ Config.byteSpace := by
    rintro rfl
    exact absurd hlo (by decide)
  have hdigit : ¬ (c < Config.byteDigit0 ∨ Config.byteDigit9 < c) :=
    not_or.2 ⟨BitVec.not_lt.2 hlo, BitVec.not_lt.2 hhi⟩
  rw [decimalUpToSpace, if_neg hspace, if_neg hdigit]
  exact if_pos hlimit

/-- A byte that is neither digit nor space makes the length malformed. -/
theorem decimalUpToSpace_notDigit {limit n nd : Nat} {c : Byte} (hspace : c ≠ 0x20#8)
    (hdigit : c < 0x30#8 ∨ 0x39#8 < c) (cs : List Byte) : decimalUpToSpace limit n nd (c :: cs) = none := by
  rw [decimalUpToSpace]
  exact (if_neg hspace).trans (if_pos hdigit)

/-- Digits mend no malformed tail: they are passed, or their number reaches the limit. -/
theorem decimalUpToSpace_digits_eq_none {limit : Nat} (digits tail : List Byte) {n nd : Nat} (hn : n < limit)
    (hdigits : ∀ c ∈ digits, 0x30#8 ≤ c ∧ c ≤ 0x39#8)
    (htail : digits.foldl appendDigit n < limit →
      ∀ nd, decimalUpToSpace limit (digits.foldl appendDigit n) nd tail = none) :
    decimalUpToSpace limit n nd (digits ++ tail) = none := by
  induction digits generalizing n nd with
  | nil => exact htail hn nd
  | cons c digits ih =>
    obtain ⟨hlo, hhi⟩ := hdigits c List.mem_cons_self
    by_cases hc : appendDigit n c < limit
    · rw [List.cons_append, decimalUpToSpace_digit hlo hhi hc]
      exact ih hc (fun d hd => hdigits d (List.mem_cons_of_mem _ hd)) htail
    · exact decimalUpToSpace_overflow hlo hhi (Nat.le_of_not_lt hc) _

/-- Settles O34: the name has no end, or the digits end without a space, with no digit, at another byte, or too large. -/
theorem malformedHeaderLength : Obligations.MalformedHeaderLength := by
  intro lenW name digits rest hname hdigits
  have hlen := declaredLength_of_name hname lenW
  have hdigitsNone := fun tail => decimalUpToSpace_digits_eq_none digits tail (nd := 0) (Nat.two_pow_pos lenW) hdigits
  refine ⟨?_, ?_, hlen _, fun c hc hspace => ?_, fun hlimit => ?_⟩
  · rw [declaredLength, afterName_eq_none hname]
  · rw [hlen, ← List.append_nil digits]
    exact hdigitsNone [] fun _ _ => rfl
  · rw [List.append_assoc, List.cons_append, hlen]
    exact hdigitsNone _ fun _ _ => decimalUpToSpace_notDigit hspace hc rest
  · rw [List.append_assoc, List.cons_append, hlen]
    exact hdigitsNone _ fun hlt => absurd hlt (Nat.not_lt.2 hlimit)

end Sys2Proof.Machine
end

section
/-! SUPPORT. Writes one after the other, and the abort procedure (R90, R119, R178). -/

namespace Sys2Proof.Machine

/-- Running `i` is one call of `write_byte(b)` (R90, R119). -/
def Writes (i : Instr) (b : Byte) : Prop := ∀ s, exec i s = writeThen b i .next s

theorem writes_canTx : Writes .canTx 0x18#8 := fun s => exec_write s (by simp)

theorem writes_bs : Writes .bs 0x08#8 := fun s => exec_write s (by simp)

/-- The state after the writes of some bytes, with the tasks `ts` still to do. -/
def afterWrites (s : State) (bytes : List Byte) (ts : List Task) : State :=
  { serviceRx s with txlog := s.txlog ++ bytes, pending := ts }

/-- Later writes find HWFIFO empty and add their bytes behind the earlier ones (R113). -/
theorem afterWrites_afterWrites (s : State) (as bs : List Byte) (ts us : List Task) :
    afterWrites (afterWrites s as ts) bs us = afterWrites s (as ++ bs) us := by
  unfold afterWrites
  rw [serviceRx_idle (by rfl), List.append_assoc]

/-- The pending calls of some writes, each given with its byte. -/
def writeTasks (ws : List (Instr × Byte)) : List Task := ws.map fun w => .call w.1

section
variable {s : State} (hready : s.txReady = true) (hscript : s.script = [])
include hready hscript

/-- With the transmit path ready a pending write sends its byte (R119). -/
theorem step_write {i : Instr} {b : Byte} (hw : Writes i b) (ts : List Task) :
    step { s with pending := .call i :: ts } = .next (afterWrites s [b] ts) :=
  calc step { s with pending := .call i :: ts }
    _ = writeThen b i .next { s with pending := ts } := (step_of_pending hscript _ ts).trans (hw _)
    _ = .next (afterWrites s [b] ts) := writeThen_ready (s := { s with pending := ts }) hready b i .next

/-- A later write adds its byte behind the earlier ones. -/
theorem step_afterWrites {i : Instr} {b : Byte} (hw : Writes i b) (bytes : List Byte) (ts : List Task) :
    step (afterWrites s bytes (.call i :: ts)) = .next (afterWrites s (bytes ++ [b]) ts) :=
  (step_write (s := afterWrites s bytes []) hready hscript hw ts).trans (congrArg _ (afterWrites_afterWrites ..))

/-- Pending writes send their bytes one after the other (R119). -/
theorem runSteps_writes (ws : List (Instr × Byte)) (hws : ∀ w ∈ ws, Writes w.1 w.2) (bytes : List Byte)
    (ts : List Task) :
    runSteps ws.length (afterWrites s bytes (writeTasks ws ++ ts)) =
      .next (afterWrites s (bytes ++ ws.map Prod.snd) ts) := by
  induction ws generalizing bytes with
  | nil =>
    rw [List.map_nil, List.append_nil]
    rfl
  | cons w ws ih =>
    obtain ⟨hw, hrest⟩ := List.forall_mem_cons.1 hws
    have hstep := step_afterWrites hready hscript hw bytes (writeTasks ws ++ ts)
    refine (run_of_step (M := core) hstep _).trans ((ih hrest _).trans ?_)
    rw [List.append_assoc]
    rfl

end

/-! ## The abort procedure -/

/-- The drain ends the procedure (R178). -/
theorem step_drain {s : State} (hscript : s.script = []) (ts : List Task) :
    step (afterWrites s [0x18, 0x18, 0x18, 0x18, 0x08, 0x08, 0x08, 0x08] (.call .discardInput :: ts)) =
      .next { afterAbortProcedure s with pending := ts } :=
  step_of_pending (s := { serviceRx s with txlog := s.txlog ++ [0x18, 0x18, 0x18, 0x18, 0x08, 0x08, 0x08, 0x08] })
    hscript (.call .discardInput) ts

/-- The writes of ABORTSEQ after the first, each with its byte (R90). -/
def laterAbortWrites : List (Instr × Byte) := List.replicate 3 (.canTx, 0x18#8) ++ List.replicate 4 (.bs, 0x08#8)

theorem laterAbortWrites_writes : ∀ w ∈ laterAbortWrites, Writes w.1 w.2 := by
  intro w hw
  rcases List.mem_append.1 hw with h | h <;> rw [List.eq_of_mem_replicate h]
  · exact writes_canTx
  · exact writes_bs

/-- With the transmit path ready the procedure sends its eight bytes and drains (R178). -/
theorem runSteps_abortProcedure {s : State} (hready : s.txReady = true) (hscript : s.script = []) (ts : List Task) :
    runSteps 11 { s with pending := .call .abortProcedure :: ts } =
      .next { afterAbortProcedure s with pending := ts } := by
  have hseq : step { s with pending := .call .abortProcedure :: ts } =
      .next { s with pending := .call .abortSeq :: .call .discardInput :: ts } := step_of_pending hscript _ _
  have hwrites : step { s with pending := .call .abortSeq :: .call .discardInput :: ts } =
      .next { s with pending := abortSeqTasks ++ .call .discardInput :: ts } := step_of_pending hscript _ _
  have hfirst : step { s with pending := abortSeqTasks ++ .call .discardInput :: ts } =
      .next (afterWrites s [0x18] (writeTasks laterAbortWrites ++ .call .discardInput :: ts)) :=
    step_write hready hscript writes_canTx _
  have hlater := runSteps_writes hready hscript laterAbortWrites laterAbortWrites_writes [0x18]
    (.call .discardInput :: ts)
  have hdrain := runSteps_succ hlater (step_drain hscript ts)
  calc runSteps 11 { s with pending := .call .abortProcedure :: ts }
    _ = runSteps 10 { s with pending := .call .abortSeq :: .call .discardInput :: ts } :=
      run_of_step (M := core) hseq 10
    _ = runSteps 9 { s with pending := abortSeqTasks ++ .call .discardInput :: ts } :=
      run_of_step (M := core) hwrites 9
    _ = runSteps 8 (afterWrites s [0x18] (writeTasks laterAbortWrites ++ .call .discardInput :: ts)) :=
      run_of_step (M := core) hfirst 8
    _ = .next { afterAbortProcedure s with pending := ts } := hdrain

/-- Settles O36: two steps begin the procedure, eight write, one drains. -/
theorem abortProcedureSendsAndDrains : Obligations.AbortProcedureSendsAndDrains :=
  fun _ ts => ⟨rfl, rfl, fun hready hscript => runSteps_abortProcedure hready hscript ts⟩

end Sys2Proof.Machine
end

section
/-! SUPPORT. A branch runs exactly where phase, outcome and condition select it (R89, R93, R218). -/

namespace Sys2Proof.Machine

/-- Phase and outcome of a BRANCH row, as R89 lists them; for another row the phase of no session. -/
def branchKey : Instr → Phase × RecvOutcome
  | .aOkSeq0 | .aHeaderAccepted | .aHeaderMalformed | .aLenExceedsCap | .aOkSeqNonzero => (.a, .ok)
  | .aEndOfTransfer => (.a, .endOfTransfer)
  | .aAbort => (.a, .abort)
  | .aProtocolError => (.a, .protocolError)
  | .aTimeout => (.a, .timeout)
  | .bOkWrongSeq | .bOkOverrun | .bOkAccept => (.b, .ok)
  | .bEotComplete | .bEotShort => (.b, .endOfTransfer)
  | .bAbort => (.b, .abort)
  | .bProtocolError => (.b, .protocolError)
  | .bTimeout => (.b, .timeout)
  | .cOk => (.c, .ok)
  | .cEndOfTransfer => (.c, .endOfTransfer)
  | .cAbort => (.c, .abort)
  | .cProtocolError => (.c, .protocolError)
  | .cTimeout => (.c, .timeout)
  | _ => (.idle, .timeout)

/-- The row that phase and outcome alone select; none where the packet or the lengths decide too (R218). -/
def branchAt : Phase → RecvOutcome → Option Instr
  | .a, .endOfTransfer => some .aEndOfTransfer
  | .a, .abort => some .aAbort
  | .a, .protocolError => some .aProtocolError
  | .a, .timeout => some .aTimeout
  | .b, .abort => some .bAbort
  | .b, .protocolError => some .bProtocolError
  | .b, .timeout => some .bTimeout
  | .c, .ok => some .cOk
  | .c, .endOfTransfer => some .cEndOfTransfer
  | .c, .abort => some .cAbort
  | .c, .protocolError => some .cProtocolError
  | .c, .timeout => some .cTimeout
  | _, _ => none

/-- The result is a next state where `c` holds, and a stop as not selected elsewhere. -/
def RunsWhere (c : Prop) (r : Result) : Prop := (c → Proceeds r) ∧ (¬ c → r = .fault .branchNotSelected)

section
variable {s : State} {i : Instr}

/-! ## What is selected -/

/-- The dispatch goes by phase and outcome first (R218). -/
theorem branchKey_of_selectBranch (h : selectBranch s = .ok i) : branchKey i = (s.phase, s.outcome) := by
  unfold selectBranch at h
  repeat' split at h
  all_goals cases h <;> simp [branchKey, *]

theorem branchKey_of_selectHeader (h : selectHeader s = .ok i) : branchKey i = (.a, .ok) := by
  unfold selectHeader at h
  repeat' split at h
  all_goals cases h <;> rfl

/-- A selected branch is one of the state's phase and outcome. -/
theorem branchKey_of_selected (h : selected s i) : branchKey i = (s.phase, s.outcome) := by
  rcases h with h | ⟨h, hi⟩
  · exact branchKey_of_selectBranch h
  · obtain ⟨hp, ho, _⟩ := header_of_selectBranch h
    rw [branchKey_of_selectHeader hi, hp, ho]

theorem selectBranch_of_branchAt {p : Phase} {o : RecvOutcome} (hp : s.phase = p) (ho : s.outcome = o)
    (h : branchAt p o = some i) : selectBranch s = .ok i := by
  unfold branchAt at h
  split at h <;> cases h <;> simp [selectBranch, hp, ho]

theorem branchKey_of_branchAt {p : Phase} {o : RecvOutcome} (h : branchAt p o = some i) : branchKey i = (p, o) := by
  unfold branchAt at h
  split at h <;> cases h <;> rfl

/-- The three rows that the header's selection chooses from (R152). -/
def isHeaderBranch : Instr → Bool
  | .aHeaderAccepted | .aHeaderMalformed | .aLenExceedsCap => true
  | _ => false

theorem isHeaderBranch_of_selectHeader (h : selectHeader s = .ok i) : isHeaderBranch i = true := by
  unfold selectHeader at h
  repeat' split at h
  all_goals cases h <;> rfl

theorem not_isHeaderBranch_of_selectBranch (h : selectBranch s = .ok i) : isHeaderBranch i = false := by
  unfold selectBranch at h
  repeat' split at h
  all_goals cases h <;> rfl

/-- A row that is none of the header's three is selected by the dispatch. -/
theorem selected_iff_selectBranch (hi : isHeaderBranch i = false) : selected s i ↔ selectBranch s = .ok i := by
  refine ⟨fun h => h.resolve_right fun ⟨_, hh⟩ => ?_, .inl⟩
  rw [isHeaderBranch_of_selectHeader hh] at hi
  cases hi

/-- One of the header's three is selected behind the dispatch to the header (R152). -/
theorem selected_iff_selectHeader (hi : isHeaderBranch i = true) :
    selected s i ↔ selectBranch s = .ok .aOkSeq0 ∧ selectHeader s = .ok i := by
  refine ⟨fun h => h.resolve_left fun hh => ?_, .inr⟩
  rw [not_isHeaderBranch_of_selectBranch hh] at hi
  cases hi

/-- The three rows of a data packet: its sequence number, then what it would bring RCVD to (R165 to R167). -/
theorem selected_dataPacket {n : Nat} {q : Byte} (hp : s.phase = .b) (ho : s.outcome = .ok) (hq : seqOf s = some q)
    (hn : s.total = some n) :
    (selected s .bOkWrongSeq ↔ (q != s.expSeq) = true) ∧
    (selected s .bOkOverrun ↔ (q == s.expSeq && overruns s.rcvd s.pktSize n) = true) ∧
    (selected s .bOkAccept ↔ (q == s.expSeq && !overruns s.rcvd s.pktSize n) = true) := by
  rw [selected_iff_selectBranch rfl, selected_iff_selectBranch rfl, selected_iff_selectBranch rfl]
  by_cases hseq : q = s.expSeq
  · cases hov : overruns s.rcvd s.pktSize n <;> simp [selectBranch, hp, ho, hq, hn, hseq, hov]
  · simp [selectBranch, hp, ho, hq, hn, hseq]

/-! ## Through the conditions of a branch -/

theorem runsWhere_of_selected {k : Result} (hi : selected s i) (hk : Proceeds k) : RunsWhere (selected s i) k :=
  ⟨fun _ => hk, fun h => absurd hi h⟩

theorem runsWhere_of_not_selected (hi : ¬ selected s i) : RunsWhere (selected s i) (.fault .branchNotSelected) :=
  ⟨fun h => absurd h hi, fun _ => rfl⟩

/-- In another phase or with another outcome the row is not selected, and it stops. -/
theorem runsWhere_onBranch {p : Phase} {o : RecvOutcome} {k : Result} (hkey : branchKey i = (p, o))
    (h : s.phase = p → s.outcome = o → RunsWhere (selected s i) k) :
    RunsWhere (selected s i) (onBranch p o s k) := by
  unfold onBranch
  split
  · next hpo =>
    obtain ⟨hp, ho⟩ := hpo
    exact h hp ho
  · next hpo =>
    refine runsWhere_of_not_selected fun hi => hpo ?_
    rw [branchKey_of_selected hi, Prod.mk.injEq] at hkey
    exact hkey

/-- A row that phase and outcome alone select. -/
theorem runsWhere_alone {p : Phase} {o : RecvOutcome} {k : Result} (hi : branchAt p o = some i)
    (hk : s.phase = p → Proceeds k) : RunsWhere (selected s i) (onBranch p o s k) :=
  runsWhere_onBranch (branchKey_of_branchAt hi) fun hp ho =>
    runsWhere_of_selected (.inl (selectBranch_of_branchAt hp ho hi)) (hk hp)

theorem runsWhere_onlyIf {c : Bool} {k : Result} (hc : selected s i ↔ c = true) (hk : Proceeds k) :
    RunsWhere (selected s i) (onlyIf c k) := by
  unfold onlyIf
  split
  · next h => exact runsWhere_of_selected (hc.2 h) hk
  · next h => exact runsWhere_of_not_selected fun hi => h (hc.1 hi)

section
variable (hx : s.rxState = .idle) (hr : returned s)
include hx hr

/-- After `Ok` the sequence number can be read (R27). -/
theorem runsWhere_onOk {p : Phase} {k : Byte → Result} (hkey : branchKey i = (p, .ok))
    (h : ∀ q, s.phase = p → s.outcome = .ok → seqOf s = some q → RunsWhere (selected s i) (k q)) :
    RunsWhere (selected s i) (onOk p s k) :=
  runsWhere_onBranch hkey fun hp ho => by
    obtain ⟨⟨q, hq⟩, _⟩ := hr.packet_reads hx ho
    rw [hq]
    exact h q hp ho hq

/-- With a sequence number other than 0 no row of the header is selected, and it stops (R152). -/
theorem runsWhere_onHeader {k : List Byte → Result} (hkey : branchKey i = (.a, .ok))
    (h0 : selected s i → selectBranch s = .ok .aOkSeq0)
    (h : ∀ p, selectBranch s = .ok .aOkSeq0 → payloadOf s = some p → RunsWhere (selected s i) (k p)) :
    RunsWhere (selected s i) (onHeader s k) :=
  runsWhere_onOk hx hr hkey fun q hp ho hq => by
    split
    · next hzero =>
      obtain ⟨_, p, hpl, _⟩ := hr.packet_reads hx ho
      rw [hpl]
      exact h p (selectBranch_of_header hp ho (hzero ▸ hq)) hpl
    · next hzero =>
      refine runsWhere_of_not_selected fun hi => hzero ?_
      obtain ⟨_, _, hseq⟩ := header_of_selectBranch (h0 hi)
      exact Option.some.inj (hq.symm.trans hseq)

/-- A row of the header's three (R154 to R156). -/
theorem runsWhere_header {k : List Byte → Result} (hi : isHeaderBranch i = true) (hkey : branchKey i = (.a, .ok))
    (h : ∀ p, payloadOf s = some p → (selected s i ↔ selectHeader s = .ok i) → RunsWhere (selected s i) (k p)) :
    RunsWhere (selected s i) (onHeader s k) :=
  runsWhere_onHeader hx hr hkey (fun hsel => ((selected_iff_selectHeader hi).1 hsel).1) fun p hdisp hpl =>
    h p hpl (by rw [selected_iff_selectHeader hi, and_iff_right hdisp])

/-! ## The rows that the packet or the lengths decide -/

theorem aHeaderMalformed_runsWhere : RunsWhere (selected s .aHeaderMalformed) (exec .aHeaderMalformed s) :=
  runsWhere_header hx hr rfl rfl fun p hpl hsel => by
    refine runsWhere_onlyIf ?_ (proceeds_next _)
    cases hd : declaredLength s.par.lenW p with
    | none => simp [hsel, selectHeader, hpl, hd]
    | some n => by_cases hcap : s.par.destCap < n <;> simp [hsel, selectHeader, hpl, hd, hcap]

theorem aLenExceedsCap_runsWhere : RunsWhere (selected s .aLenExceedsCap) (exec .aLenExceedsCap s) :=
  runsWhere_header hx hr rfl rfl fun p hpl hsel => by
    cases hd : declaredLength s.par.lenW p with
    | none => exact runsWhere_of_not_selected (by simp [hsel, selectHeader, hpl, hd])
    | some n => exact runsWhere_onlyIf (by simp [hsel, selectHeader, hpl, hd]) (proceeds_next _)

theorem aHeaderAccepted_runsWhere : RunsWhere (selected s .aHeaderAccepted) (exec .aHeaderAccepted s) :=
  runsWhere_header hx hr rfl rfl fun p hpl hsel => by
    cases hd : declaredLength s.par.lenW p with
    | none => exact runsWhere_of_not_selected (by simp [hsel, selectHeader, hpl, hd])
    | some n =>
      exact runsWhere_onlyIf (by simp [hsel, selectHeader, hpl, hd]) (proceeds_writeThen fun _ => proceeds_next _)

theorem aOkSeq0_runsWhere : RunsWhere (selected s .aOkSeq0) (exec .aOkSeq0 s) :=
  runsWhere_onHeader hx hr rfl (selected_iff_selectBranch rfl).1 fun _ hdisp _ =>
    runsWhere_of_selected (.inl hdisp) (proceeds_next _)

theorem aOkSeqNonzero_runsWhere : RunsWhere (selected s .aOkSeqNonzero) (exec .aOkSeqNonzero s) :=
  runsWhere_onOk hx hr rfl fun q hp ho hq => by
    refine runsWhere_onlyIf ?_ (proceeds_writeThen fun _ => proceeds_next _)
    rw [selected_iff_selectBranch rfl]
    simp [selectBranch, hp, ho, hq]

theorem bOkWrongSeq_runsWhere (hs : SessionOk s) : RunsWhere (selected s .bOkWrongSeq) (exec .bOkWrongSeq s) :=
  runsWhere_onOk hx hr rfl fun q hp ho hq => by
    obtain ⟨n, hn, _⟩ := hs.data hp
    obtain ⟨hsel, _, _⟩ := selected_dataPacket hp ho hq hn
    exact runsWhere_onlyIf hsel (proceeds_writeThen fun _ => proceeds_next _)

theorem bOkOverrun_runsWhere (hs : SessionOk s) : RunsWhere (selected s .bOkOverrun) (exec .bOkOverrun s) :=
  runsWhere_onOk hx hr rfl fun q hp ho hq => by
    obtain ⟨n, hn, _⟩ := hs.data hp
    obtain ⟨_, hsel, _⟩ := selected_dataPacket hp ho hq hn
    rw [withTotal_eq hn]
    exact runsWhere_onlyIf hsel (proceeds_next _)

theorem bOkAccept_runsWhere (hs : SessionOk s) : RunsWhere (selected s .bOkAccept) (exec .bOkAccept s) :=
  runsWhere_onOk hx hr rfl fun q hp ho hq => by
    obtain ⟨n, hn, _⟩ := hs.data hp
    obtain ⟨_, _, hsel⟩ := selected_dataPacket hp ho hq hn
    rw [withTotal_eq hn]
    exact runsWhere_onlyIf hsel (proceeds_writeThen fun _ => proceeds_next _)

end

theorem bEotComplete_runsWhere (hs : SessionOk s) : RunsWhere (selected s .bEotComplete) (exec .bEotComplete s) :=
  runsWhere_onBranch rfl fun hp ho => by
    obtain ⟨n, hn, _⟩ := hs.data hp
    rw [withTotal_eq hn]
    refine runsWhere_onlyIf ?_ (proceeds_writeThen fun _ => proceeds_next _)
    rw [selected_iff_selectBranch rfl]
    simp [selectBranch, hp, ho, hn]

theorem bEotShort_runsWhere (hs : SessionOk s) : RunsWhere (selected s .bEotShort) (exec .bEotShort s) :=
  runsWhere_onBranch rfl fun hp ho => by
    obtain ⟨n, hn, _⟩ := hs.data hp
    rw [withTotal_eq hn]
    refine runsWhere_onlyIf ?_ (proceeds_writeThen fun _ => proceeds_next _)
    rw [selected_iff_selectBranch rfl]
    simp [selectBranch, hp, ho, hn]

/-! ## All 22 rows -/

/-- Each BRANCH row runs exactly where it is selected. -/
theorem branch_runsWhere (hx : s.rxState = .idle) (hr : returned s) (hs : SessionOk s) (hi : isBranch i = true) :
    RunsWhere (selected s i) (exec i s) := by
  match i, hi with
  | .aOkSeq0, _ => exact aOkSeq0_runsWhere hx hr
  | .aHeaderAccepted, _ => exact aHeaderAccepted_runsWhere hx hr
  | .aHeaderMalformed, _ => exact aHeaderMalformed_runsWhere hx hr
  | .aLenExceedsCap, _ => exact aLenExceedsCap_runsWhere hx hr
  | .aOkSeqNonzero, _ => exact aOkSeqNonzero_runsWhere hx hr
  | .aProtocolError, _ => exact runsWhere_alone rfl fun _ => proceeds_next _
  | .aAbort, _ => exact runsWhere_alone rfl fun _ => proceeds_writeThen fun _ => proceeds_next _
  | .aEndOfTransfer, _ => exact runsWhere_alone rfl fun _ => proceeds_next _
  | .aTimeout, _ => exact runsWhere_alone rfl fun _ => proceeds_next _
  | .bEotComplete, _ => exact bEotComplete_runsWhere hs
  | .bEotShort, _ => exact bEotShort_runsWhere hs
  | .bOkWrongSeq, _ => exact bOkWrongSeq_runsWhere hx hr hs
  | .bOkOverrun, _ => exact bOkOverrun_runsWhere hx hr hs
  | .bOkAccept, _ => exact bOkAccept_runsWhere hx hr hs
  | .bProtocolError, _ => exact runsWhere_alone rfl fun _ => proceeds_next _
  | .bAbort, _ => exact runsWhere_alone rfl fun _ => proceeds_next _
  | .bTimeout, _ => exact runsWhere_alone rfl fun _ => proceeds_next _
  | .cEndOfTransfer, _ =>
    exact runsWhere_alone rfl fun hp => by
      obtain ⟨hn, _⟩ := hs.termination hp
      exact proceeds_withTotal hn (proceeds_writeThen fun _ => proceeds_next _)
  | .cOk, _ => exact runsWhere_alone rfl fun _ => proceeds_ite (fun _ => proceeds_next _) fun _ => proceeds_next _
  | .cProtocolError, _ => exact runsWhere_alone rfl fun _ => proceeds_next _
  | .cTimeout, _ => exact runsWhere_alone rfl fun _ => proceeds_next _
  | .cAbort, _ => exact runsWhere_alone rfl fun _ => proceeds_next _

end

/-- Settles O48: row by row, the condition that lets a branch run is the one that selects it. -/
theorem exactlyTheSelectedBranchRuns : Obligations.ExactlyTheSelectedBranchRuns :=
  fun _ _ hx hr hs hi => branch_runsWhere hx hr hs hi

end Sys2Proof.Machine
end

section
/-! SUPPORT. A word placed from the opcode table is what the next step runs (R76, R85, R93). -/

namespace Sys2Proof.Machine

/-- A table word of eight bits is the byte of its value. -/
theorem decodeTableWord_byte (b : Byte) : decodeTableWord 8 b.toNat = some (decodeTableByte b) := by
  show some (decodeTableByte (BitVec.ofNat 8 b.toNat)) = _
  rw [BitVec.ofNat_toNat, BitVec.setWidth_eq]

/-- The words of a leading byte's instruction are that byte (R76, R85). -/
theorem encode_decodeLeading (b : Byte) : encode (decodeLeading b) = some (.rx, [b]) := by
  unfold decodeLeading
  split
  · next h => rw [h]; rfl
  split
  · next h => rw [h]; rfl
  split
  · next h => rw [h]; rfl
  split
  · next h => rw [h]; rfl
  · rfl

/-- A byte that none of the four legal rows matches is ILLEGAL (R85). -/
theorem decodeLeading_of_not_legalTag {b : Byte} (h : legalTag b = false) : decodeLeading b = .illegal b := by
  simp only [legalTag, Bool.or_eq_false_iff, beq_eq_false_iff_ne] at h
  obtain ⟨⟨⟨hsoh, hstx⟩, heot⟩, hcan⟩ := h
  rw [decodeLeading, if_neg hsoh, if_neg hstx, if_neg heot, if_neg hcan]

/-- A received tag or a byte of no row is read in the leading-byte position. -/
theorem decodeTableByte_received {b : Byte} (h : legalTag b = true ∨ decodeControl b = none) :
    decodeTableByte b = decodeLeading b := by
  cases hl : legalTag b with
  | true => rw [decodeTableByte, if_pos hl]
  | false =>
    have hc : decodeControl b = none := h.resolve_left (by simp [hl])
    rw [decodeTableByte, hl, hc, decodeLeading_of_not_legalTag hl]
    rfl

/-- The words of a transmitted control byte's instruction are that byte (R75, R90). -/
theorem encode_decodeControl {b : Byte} {i : Instr} (h : decodeControl b = some i) : encode i = some (.tx, [b]) := by
  unfold decodeControl at h
  repeat' split at h
  all_goals cases h
  all_goals next hb => rw [hb]; rfl

section
variable {s : State} {b : Byte}

theorem withFetchWord_received (h : legalTag b = true ∨ decodeControl b = none) :
    s.withFetchWord 8 b.toNat = coreNext (placeLeading b s) := by
  rw [State.withFetchWord, decodeTableWord_byte, decodeTableByte_received h]
  simp only [placeInstr, encode_decodeLeading]

theorem withFetchWord_transmitted {i : Instr} (hl : legalTag b = false) (h : decodeControl b = some i) :
    decodeTableByte b = i ∧ s.withFetchWord 8 b.toNat = coreNext (placeTransmit i s) := by
  have hbyte : decodeTableByte b = i := by
    rw [decodeTableByte, hl, h]
    rfl
  refine ⟨hbyte, ?_⟩
  rw [State.withFetchWord, decodeTableWord_byte, hbyte]
  simp only [placeInstr, encode_decodeControl h]

/-! ## The ring with a byte placed -/

/-- The oldest byte stands at RING_RD. -/
theorem ringAddr_zero (s : State) : ringAddr s 0 = s.ringRd.toNat := Nat.mod_eq_of_lt s.ringRd.isLt

/-- A byte written at RING_RD takes the place of the oldest one. -/
theorem overwriteOldest_ring (h : RingOk s) (h0 : s.ringCnt ≠ 0) (b : Byte) :
    RingOk { s with ring := s.ring.write s.ringRd.toNat b } ∧
    ringBytes { s with ring := s.ring.write s.ringRd.toNat b } = b :: (ringBytes s).tail := by
  obtain ⟨n, hn⟩ : ∃ n, s.ringCnt.toNat = n + 1 :=
    Nat.exists_eq_succ_of_ne_zero fun hz => h0 (BitVec.eq_of_toNat_eq hz)
  have hcap := h.count
  constructor
  · refine ⟨h.count, h.cursors, fun k hk => ?_⟩
    show (Memory.read _ (ringAddr s k)).isSome = true
    rw [read_write]
    split
    · rfl
    · exact h.stored k hk
  · have hrest : ringFrom { s with ring := s.ring.write s.ringRd.toNat b } 1 n = ringFrom s 1 n := by
      refine ringFrom_congr n 1 1 fun i hi => read_write_other _ _ fun he => ?_
      have hzero : 1 + i = 0 := ringAddr_inj (s := s) (by omega) (by omega) (he.trans (ringAddr_zero s).symm)
      omega
    have hfirst : (s.ring.write s.ringRd.toNat b).read (ringAddr s 0) = some b := by
      rw [ringAddr_zero, read_write_same]
    rw [ringBytes, ringBytes, hn, ringFrom, ringFrom, List.tail_cons, hrest]
    exact congrArg (· :: _) (congrArg (Option.getD · 0) hfirst)

/-- A placed byte is the oldest of a ring in form: pushed into an empty ring, else in the oldest one's place. -/
theorem placeLeading_ring (h : RingOk s) (b : Byte) :
    RingOk (placeLeading b s) ∧ ringBytes (placeLeading b s) = b :: (ringBytes s).tail := by
  by_cases h0 : s.ringCnt = 0
  · have hwr : s.ringWr = s.ringRd := by simpa [h0] using h.cursors
    have hpush : placeLeading b s = { ringPush b s with rxState := .tag, pending := .rx :: s.pending } := by
      rw [ringPush_room (by simp [h0, Config.ringCap]), placeLeading, if_pos h0, hwr, h0]
      rfl
    have hbytes := ringBytes_push h b
    rw [if_neg (by simp [h0, Config.ringCap]), ringBytes_nil.2 h0] at hbytes
    rw [hpush, ringBytes_nil.2 h0]
    refine ⟨(ringPush_ok h b).congr rfl rfl rfl rfl, Eq.trans ?_ hbytes⟩
    exact ringBytes_congr rfl rfl rfl
  · obtain ⟨hok, hbytes⟩ := overwriteOldest_ring h h0 b
    have hplace : placeLeading b s =
        { s with ring := s.ring.write s.ringRd.toNat b, rxState := .tag, pending := .rx :: s.pending } := if_neg h0
    rw [hplace]
    refine ⟨hok.congr rfl rfl rfl rfl, Eq.trans ?_ hbytes⟩
    exact ringBytes_congr rfl rfl rfl

/-- What a placed byte changes: the ring, RX_STATE, and the `receive` that waits. -/
theorem placeLeading_eq (b : Byte) (s : State) : placeLeading b s =
    { s with ring := (placeLeading b s).ring, ringWr := (placeLeading b s).ringWr,
             ringCnt := (placeLeading b s).ringCnt, rxState := .tag, pending := .rx :: s.pending } := by
  unfold placeLeading
  dsimp only
  split <;> rfl

/-! ## The step -/

/-- The step that takes a placed byte runs the instruction of the leading byte (R69, R116). -/
theorem step_placeLeading (h : RingOk s) (b : Byte) :
    ∃ s1, step (coreNext (placeLeading b s)) = exec (decodeLeading b) s1 ∧
      s1 = { s with rxState := .tag, hwfifo := [], ring := s1.ring, ringWr := s1.ringWr, ringRd := s.ringRd + 1,
                    ringCnt := s1.ringCnt } ∧
      RingOk s1 ∧ ringBytes s1 = ((ringBytes s).tail ++ s.hwfifo).take 4095 := by
  obtain ⟨hok, hbytes⟩ := placeLeading_ring h b
  have hplace := placeLeading_eq b s
  generalize placeLeading b s = u at hok hbytes hplace
  have hpending : (ringBytes u ++ u.hwfifo).take 4096 = b :: ((ringBytes s).tail ++ s.hwfifo).take 4095 := by
    rw [hbytes, hplace]
    rfl
  obtain ⟨r, w, c, t, ht, hpoll, hokt, hbytest⟩ := rx_poll (ts := s.pending) hok hpending
  have hstep : step (coreNext u) = exec (decodeLeading b) t := by
    have htask : u.pending = .rx :: s.pending := by rw [hplace]
    have hx : u.rxState = .tag := by rw [hplace]
    exact (coreMove_cons htask).trans (rxTag_byte (s := { u with pending := s.pending }) hx hpoll)
  refine ⟨t, hstep, ?_, hokt, hbytest⟩
  rw [ht, hplace]

end

/-- Settles O2: a received byte is put at the front of the ring and taken there; a transmitted one is a pending call. -/
theorem placedWordIsRunNext : Obligations.PlacedWordIsRunNext := by
  intro s b h
  refine ⟨fun hb => ?_, fun i hl hi => ?_⟩
  · rw [withFetchWord_received hb, decodeTableByte_received hb]
    obtain ⟨_, hbytes⟩ := placeLeading_ring h b
    refine ⟨Eq.trans ?_ hbytes, step_placeLeading h b⟩
    exact ringBytes_congr rfl rfl rfl
  · obtain ⟨hbyte, hplace⟩ := withFetchWord_transmitted (s := s) hl hi
    exact ⟨hbyte, congrArg step hplace⟩

/-- Settles O3: each word is read off the tables of R75, R76 and R90. -/
theorem writtenWordsDecode : Obligations.WrittenWordsDecode :=
  ⟨rfl, rfl, rfl, rfl, rfl, rfl, rfl, rfl, rfl, rfl, rfl⟩

end Sys2Proof.Machine
end

section
/-! SUPPORT. The check value is linear over XOR (R103). -/

namespace Sys2Proof.Machine

/-- Shifting goes bit by bit, and where both top bits are 1 the two polynomials cancel (R101). -/
theorem crcRound_xor (x y : Check) : crcRound (x ^^^ y) = crcRound x ^^^ crcRound y := by
  unfold crcRound
  rw [BitVec.getLsbD_xor, BitVec.shiftLeft_xor_distrib]
  cases hx : x.getLsbD 15 <;> cases hy : y.getLsbD 15
  case false.false => rfl
  case false.true => exact BitVec.xor_assoc _ _ _
  case true.false =>
    show (x <<< 1 ^^^ y <<< 1) ^^^ Config.crcPoly = (x <<< 1 ^^^ Config.crcPoly) ^^^ y <<< 1
    ac_rfl
  case true.true =>
    calc x <<< 1 ^^^ y <<< 1
      _ = (x <<< 1 ^^^ y <<< 1) ^^^ (Config.crcPoly ^^^ Config.crcPoly) := by simp
      _ = (x <<< 1 ^^^ Config.crcPoly) ^^^ (y <<< 1 ^^^ Config.crcPoly) := by ac_rfl

theorem crcRounds_xor (n : Nat) (x y : Check) : crcRounds n (x ^^^ y) = crcRounds n x ^^^ crcRounds n y := by
  induction n generalizing x y with
  | zero => rfl
  | succ n ih => simp only [crcRounds, crcRound_xor, ih]

/-- Register and byte enter together, so the step is linear in the pair of them (R101). -/
theorem crcStep_xor (c d : Check) (x y : Byte) : crcStep (c ^^^ d) (x ^^^ y) = crcStep c x ^^^ crcStep d y := by
  unfold crcStep
  rw [← crcRounds_xor, BitVec.setWidth_xor, BitVec.shiftLeft_xor_distrib]
  congr 1
  ac_rfl

theorem crcFrom_zipWith_xor {a b : List Byte} (h : a.length = b.length) (c d : Check) :
    crcFrom (c ^^^ d) (List.zipWith (fun x y => x ^^^ y) a b) = crcFrom c a ^^^ crcFrom d b := by
  induction a generalizing b c d with
  | nil =>
    obtain rfl := List.eq_nil_of_length_eq_zero h.symm
    rfl
  | cons x a ih =>
    obtain ⟨y, b, rfl⟩ := List.exists_cons_of_length_eq_add_one h.symm
    rw [List.zipWith_cons_cons, crcFrom, crcStep_xor]
    exact ih (Nat.succ.inj h) (crcStep c x) (crcStep d y)

/-- Settles O7: zero bytes leave the register zero, where the message then starts; linearity goes byte by byte from the
zero preset, which is its own XOR. -/
theorem crcIsLinear : Obligations.CrcIsLinear := by
  refine ⟨fun n s => ?_, fun a b h => ?_⟩
  · rw [crc16_append, crc16_replicate_zero]
    rfl
  · exact crcFrom_zipWith_xor h Config.crcInit Config.crcInit

/-- Settles O6: the two bytes put together are the check value. -/
theorem crcCancelsItself : Obligations.CrcCancelsItself := fun data =>
  (crc16_append_pair_eq_zero data _ _).2 (checkOfBytes_checkHi_checkLo (crc16 data)).symm

/-- Settles O8: two more steps lead to zero from one register value alone, and the two bytes put together are it. -/
theorem residueAndComparisonAgree : Obligations.ResidueAndComparisonAgree := crc16_append_pair_eq_zero

end Sys2Proof.Machine
end

section
/-! SUPPORT. One turn of a read with no byte pending, and what a push and an illegal leading byte do (R111, R116, R137
to R139). -/

namespace Sys2Proof.Machine

section
variable {s : State}

/-- A turn of a read with no byte pending: none after the deadline, else it waits (R116, R118). -/
theorem readTurn_empty (h : RingOk s) (hb : ringBytes s = []) (hf : s.hwfifo = []) :
    readTurn s = .next (
      if expired s.par.cntW s.counter s.deadline then { s with ret := .byte none }
      else { s with pending := .readPoll :: s.pending }) := by
  have hpoll : pollRead s = if expired s.par.cntW s.counter s.deadline then .none s else .waiting s :=
    rx_nopoll h hb hf
  split at hpoll
  · next hexp =>
    rw [if_pos hexp]
    exact readTurn_none hpoll
  · next hexp =>
    rw [if_neg hexp]
    exact readTurn_waiting hpoll

/-- A turn answers none only with no byte pending and the deadline passed (R118). -/
theorem pollRead_none {t : State} (h : RingOk s) (ht : pollRead s = .none t) :
    ringBytes s = [] ∧ s.hwfifo = [] ∧ expired s.par.cntW s.counter s.deadline = true := by
  rcases pollRead_spec h with ⟨_, _, _, _, _, hpoll, _, _⟩ | ⟨hb, hf, _, hpoll⟩
  · exact absurd (ht.symm.trans hpoll) nofun
  · refine ⟨hb, hf, ?_⟩
    split at hpoll
    · next hexp => exact hexp
    · exact absurd (ht.symm.trans hpoll) nofun

/-- The position of a `receive` that reads a byte: the leading one, or one of the body (R131). -/
def readsByte (s : State) : Prop :=
  s.rxState = .tag ∨ (s.rxState = .body ∧ s.pktIdx.toNat ≤ s.pktSize.toNat + 4)

theorem rxStep_none {t : State} (hx : readsByte s) (h : pollRead s = .none t) :
    rxStep s = .next (finishReceive .timeout t) := by
  rcases hx with htag | ⟨hbody, hidx⟩
  · exact rxTag_none htag h
  · exact rxBody_none hbody hidx h

theorem rxStep_waiting {t : State} (hx : readsByte s) (h : pollRead s = .waiting t) :
    rxStep s = .next (t.push [.rx]) := by
  rcases hx with htag | ⟨hbody, hidx⟩
  · exact rxTag_waiting htag h
  · exact rxBody_waiting hbody hidx h

/-- Only after `Ok` is there a packet to read (R27). -/
theorem packetHeld_eq_false (ho : s.outcome ≠ .ok) : packetHeld s = false := by
  simp [packetHeld, ho]

theorem pktAt_eq_none (ho : s.outcome ≠ .ok) (i : Nat) : pktAt s i = none := by
  simp [pktAt, packetHeld_eq_false ho]

theorem payloadOf_eq_none (ho : s.outcome ≠ .ok) : payloadOf s = none := by
  simp [payloadOf, packetHeld_eq_false ho]

end

/-- Settles O17: the call's first turn and every later one find no byte and go by the deadline, which only the call
sets. -/
theorem readByteWaitsForTheDeadline : Obligations.ReadByteWaitsForTheDeadline := by
  refine ⟨fun s h hb hf => ?_, fun s t => pollRead_none⟩
  have hcnt : s.ringCnt = 0 := ringBytes_nil.1 hb
  refine ⟨fun timeout => ?_, fun ts hscript hpd => ?_⟩
  · exact readTurn_empty (s := startRead timeout s) (h.congr rfl rfl rfl rfl) (ringBytes_nil.2 hcnt) hf
  · have hturn := readTurn_empty (s := { s with pending := ts }) (h.congr rfl rfl rfl rfl) (ringBytes_nil.2 hcnt) hf
    rw [coreTurn_step (.inl ⟨hscript, rfl⟩), coreMove_cons hpd]
    refine hturn.trans ?_
    rw [← hpd]

/-- Settles O27: in both positions the read that finds no byte goes by the deadline. -/
theorem missingByteIsTimeout : Obligations.MissingByteIsTimeout := by
  intro s s0 ts hct h hpd hx hb hf
  have hpoll := rx_nopoll (ts := ts) h hb hf
  have hreads : readsByte { s0 with pending := ts } := hx
  rw [coreTurn_step hct, coreMove_cons hpd]
  refine ⟨fun hexp => ?_, fun hexp => ?_⟩
  · rw [if_pos hexp] at hpoll
    exact ⟨_, rxStep_none hreads hpoll, rfl, pktAt_eq_none nofun, payloadOf_eq_none nofun⟩
  · rw [if_neg (by simp [hexp])] at hpoll
    refine (rxStep_waiting hreads hpoll).trans ?_
    show Host.Outcome.next { s0 with pending := .rx :: ts } = _
    rw [← hpd]

/-- Settles O11: a full ring stays as it is, one with room takes the byte at its write cursor. -/
theorem ringPushStoresOrDrops : Obligations.RingPushStoresOrDrops := by
  intro s b
  refine ⟨?_, fun _ => ⟨read_write_same .., fun a ha => read_write_other _ _ ha⟩, fun hwr => ?_⟩
  · show Host.Outcome.next (ringPush b s) = _
    split
    · next hfull => rw [ringPush_full hfull]
    · next hroom => rw [ringPush_room hroom]
  · rw [BitVec.toNat_add, hwr]
    rfl

theorem exec_illegal {s : State} (hx : s.rxState = .tag) (b : Byte) :
    exec (.illegal b) s = .next (finishReceive .protocolError s) := inTagPosition_eq hx _

/-- Settles O24: the turn takes the oldest byte, which decodes to ILLEGAL. -/
theorem illegalLeadingByte : Obligations.IllegalLeadingByte := by
  refine ⟨fun s b hx => exec_illegal hx b, fun s s0 ts b bs hct h hpd hx hb hill => ?_⟩
  have hkept : s0 = { s with script := s0.script } := coreTurn_fields hct
  obtain ⟨_, _, _, u, hu, hpoll, _, hbytes⟩ := rx_poll (ts := ts) h hb
  have hux : u.rxState = .tag := by rw [hu]; exact hx
  have hstep : step s = .next (finishReceive .protocolError u) :=
    calc step s
      _ = rxStep { s0 with pending := ts } := (coreTurn_step hct).trans (coreMove_cons hpd)
      _ = exec (decodeLeading b) u := rxTag_byte hx hpoll
      _ = exec (.illegal b) u := by rw [decodeLeading_illegal hill]
      _ = .next (finishReceive .protocolError u) := exec_illegal hux b
  refine ⟨_, hstep, rfl, rfl, ?_, ?_, ?_, ?_, ?_⟩
  · rw [hu]; rfl
  · rw [← hbytes]; exact ringBytes_congr rfl rfl rfl
  · rw [hu]; rfl
  · rw [hu]; exact congrArg (·.pkt) hkept
  · rw [hu]; exact congrArg (·.txlog) hkept

end Sys2Proof.Machine
end

section
/-! SUPPORT. How a session goes on from a branch: an answer of one byte, ACK followed by C, and the abort procedure
followed by a failure (R151 to R180). -/

namespace Sys2Proof.Machine

/-! ## The phase steps -/

theorem exec_phaseAAttempt_eq {s : State} (hp : s.phase = .a) : exec .phaseAAttempt s =
    .next ((discardInput s).push [.call .crq, .call (.receive 3), .dispatch]) := if_pos hp

theorem receiveStep_eq {s : State} {p : Phase} (hp : s.phase = p) (hx : s.rxState = .idle) (tol : BitVec 2) :
    receiveStep p tol s = .next (beginReceive tol (s.push [.dispatch])) := (if_pos hp).trans (if_pos hx)

theorem receiveStep_wrongPhase {s : State} {p : Phase} (hp : s.phase ≠ p) (tol : BitVec 2) :
    receiveStep p tol s = .fault .wrongPhase := if_neg hp

/-- Settles O31: each step tests PHASE, and the steps of B and C are one shared step. -/
theorem phaseStepsBegin : Obligations.PhaseStepsBegin := by
  refine fun s => ⟨exec_phaseAAttempt_eq, fun i p hi hp hx => ?_, fun i p hi hp => ?_⟩
  · simp only [List.mem_cons, List.not_mem_nil, or_false, Prod.mk.injEq] at hi
    rcases hi with ⟨rfl, rfl⟩ | ⟨rfl, rfl⟩ <;> exact receiveStep_eq hp hx 0
  · simp only [List.mem_cons, List.not_mem_nil, or_false, Prod.mk.injEq] at hi
    rcases hi with ⟨rfl, rfl⟩ | ⟨rfl, rfl⟩ | ⟨rfl, rfl⟩
    · exact if_neg hp
    · exact receiveStep_wrongPhase hp 0
    · exact receiveStep_wrongPhase hp 0

/-! ## Branches that answer with one byte

Each is a write of its byte, which sends or waits (R119); what comes after the byte is the rest of the branch. -/

section
variable {s : State}

theorem aHeaderAccepted_eq {p : List Byte} {n : Nat} (hp : s.phase = .a) (ho : s.outcome = .ok)
    (hq : seqOf s = some 0) (hpl : payloadOf s = some p) (hlen : declaredLength s.par.lenW p = some n)
    (hcap : n ≤ s.par.destCap) :
    exec .aHeaderAccepted s = writeThen 0x06#8 .aHeaderAccepted (fun s' => .next (s'.push [.call .crq, .enterB]))
      { s with total := some n } := by
  show execAHeaderAccepted s = _
  rw [execAHeaderAccepted, onHeader_eq hp ho hq hpl, hlen]
  exact onlyIf_eq (decide_eq_true hcap) _

theorem aAbort_eq (hp : s.phase = .a) (ho : s.outcome = .abort) :
    exec .aAbort s = writeThen 0x06#8 .aAbort (fun s' => .next (failSession .hsAbort s')) s :=
  onBranch_eq hp ho _

theorem aOkSeqNonzero_eq {q : Byte} (hp : s.phase = .a) (ho : s.outcome = .ok) (hq : seqOf s = some q) (h0 : q ≠ 0) :
    exec .aOkSeqNonzero s =
      writeThen 0x15#8 .aOkSeqNonzero (fun s' => .next (s'.push [.call .phaseAAttempt])) s :=
  (onOk_eq hp ho hq _).trans (onlyIf_eq (bne_iff_ne.2 h0) _)

theorem bEotComplete_eq {t : Nat} (hp : s.phase = .b) (ho : s.outcome = .endOfTransfer) (ht : s.total = some t)
    (hall : t ≤ s.rcvd) :
    exec .bEotComplete s = writeThen 0x06#8 .bEotComplete (fun s' => .next (s'.push [.call .crq, .enterC])) s :=
  (onBranch_eq hp ho _).trans ((withTotal_eq ht _).trans (onlyIf_eq (decide_eq_true hall) _))

theorem bEotShort_eq {t : Nat} (hp : s.phase = .b) (ho : s.outcome = .endOfTransfer) (ht : s.total = some t)
    (hshort : s.rcvd < t) :
    exec .bEotShort s = writeThen 0x06#8 .bEotShort
      (fun s' => .next (s'.push
        [.call .crq, .call .abortProcedure, .call (.report .dataShort), .call (.fail .dataShort)])) s :=
  (onBranch_eq hp ho _).trans ((withTotal_eq ht _).trans (onlyIf_eq (decide_eq_true hshort) _))

theorem bOkWrongSeq_eq {q : Byte} (hp : s.phase = .b) (ho : s.outcome = .ok) (hq : seqOf s = some q)
    (hne : q ≠ s.expSeq) :
    exec .bOkWrongSeq s =
      writeThen 0x15#8 .bOkWrongSeq (fun s' => .next (s'.push [.call .discardInput, .call .phaseBStep])) s :=
  (onOk_eq hp ho hq _).trans (onlyIf_eq (bne_iff_ne.2 hne) _)

theorem cEndOfTransfer_eq {t : Nat} (hp : s.phase = .c) (ho : s.outcome = .endOfTransfer) (ht : s.total = some t) :
    exec .cEndOfTransfer s = writeThen 0x06#8 .cEndOfTransfer (fun s' => .next (succeedSession t s')) s :=
  (onBranch_eq hp ho _).trans (withTotal_eq ht _)

end

/-- Settles O40: the branch writes ACK, then records the failure. -/
theorem handshakeAbortIsAcknowledged : Obligations.HandshakeAbortIsAcknowledged := by
  intro s hp ho
  rw [aAbort_eq hp ho]
  exact ⟨fun hr => writeThen_ready hr _ _ _, fun hr => writeThen_wait hr _ _ _⟩

/-- Settles O42: one branch leaves the attempt pending at once, the other after its NAK. -/
theorem handshakeRetries : Obligations.HandshakeRetries := by
  refine fun s hp => ⟨fun ho => onBranch_eq hp ho _, fun q ho hq h0 => ?_⟩
  rw [aOkSeqNonzero_eq hp ho hq h0]
  exact ⟨fun hr => writeThen_ready hr _ _ _, fun hr => writeThen_wait hr _ _ _⟩

/-- Settles O47: the branch writes ACK, then records the success. -/
theorem terminationSucceedsWithTotal : Obligations.TerminationSucceedsWithTotal := by
  intro s t hp ho ht
  rw [cEndOfTransfer_eq hp ho ht]
  exact ⟨fun hr => writeThen_ready hr _ _ _, fun hr => writeThen_wait hr _ _ _⟩

/-! ## Runs -/

theorem writes_crq : Writes .crq 0x43#8 := fun s => exec_write s (by simp)

section
variable {s : State} (hscript : s.script = [])
include hscript

/-- A run begins with the call that stands next. -/
theorem runSteps_call {i : Instr} {ts : List Task} {u : State} (h : exec i { s with pending := ts } = .next u)
    (k : Nat) : runSteps (k + 1) { s with pending := .call i :: ts } = runSteps k u :=
  run_of_step (M := core) ((step_of_pending hscript (.call i) ts).trans h) k

/-- `fail` with a session running records the failure and drops what was pending (R180). -/
theorem step_fail (hp : s.phase ≠ .idle) (c : FailCause) (ts : List Task) :
    step { s with pending := .call (.fail c) :: ts } = .next (recordsFailure c s) :=
  (step_of_pending hscript (.call (.fail c)) ts).trans (if_neg hp)

/-- A report without text sends nothing (R179). -/
theorem step_report_empty {c : FailCause} (htext : diagTextOf s.par c = []) (ts : List Task) :
    step { s with pending := .call (.report c) :: ts } = .next { s with pending := ts } := by
  rw [step_of_pending hscript]
  show Host.Outcome.next
    { s with pending := ((diagTextOf s.par c).map fun b => Task.call (.writeByte b)) ++ ts } = _
  rw [htext]
  rfl

variable (hready : s.txReady = true)
include hready

/-- After ACK the write of C goes on (R154, R163, R164). -/
theorem runSteps_crq (ts : List Task) (k : Nat) :
    runSteps (k + 1) (afterWrites s [0x06#8] (.call .crq :: ts)) = runSteps k (afterWrites s [0x06#8, 0x43#8] ts) :=
  run_of_step (M := core) (step_afterWrites hready hscript writes_crq [0x06#8] ts) k

/-- The abort procedure, then `fail`: the reaction of R157 and the other callers of R178. -/
theorem runSteps_abortThenFail (hp : s.phase ≠ .idle) (c : FailCause) (ts : List Task) :
    runSteps 12 { s with pending := .call .abortProcedure :: .call (.fail c) :: ts } =
      .next (recordsFailure c (afterAbortProcedure s)) :=
  runSteps_succ (runSteps_abortProcedure hready hscript _)
    (step_fail (s := afterAbortProcedure s) hscript hp c ts)

/-- The abort procedure, an empty report, then `fail` (R164). -/
theorem runSteps_abortReportFail (hp : s.phase ≠ .idle) {c : FailCause} (htext : diagTextOf s.par c = [])
    (ts : List Task) :
    runSteps 13 { s with pending := .call .abortProcedure :: .call (.report c) :: .call (.fail c) :: ts } =
      .next (recordsFailure c (afterAbortProcedure s)) :=
  have habort := runSteps_abortProcedure hready hscript (.call (.report c) :: .call (.fail c) :: ts)
  have hreport := step_report_empty (s := afterAbortProcedure s) hscript htext (.call (.fail c) :: ts)
  runSteps_succ (runSteps_succ habort hreport) (step_fail (s := afterAbortProcedure s) hscript hp c ts)

/-- A branch whose reaction is the abort procedure and a failure, run to the end of the session. -/
theorem runSteps_abortAndFail (hp : s.phase ≠ .idle) {i : Instr} {c : FailCause} (h : exec i s = abortAndFail c s) :
    runSteps 13 { s with pending := .call i :: s.pending } = .next (recordsFailure c (afterAbortProcedure s)) :=
  (runSteps_call hscript h 12).trans (runSteps_abortThenFail hscript hready hp c s.pending)

end

/-- The abort procedure services the receive path once, however much has been written before it. -/
theorem afterAbortProcedure_afterWrites (s : State) (bytes : List Byte) (ts : List Task) :
    afterAbortProcedure (afterWrites s bytes ts) =
      { afterAbortProcedure s with
        txlog := s.txlog ++ (bytes ++ [0x18#8, 0x18#8, 0x18#8, 0x18#8, 0x08#8, 0x08#8, 0x08#8, 0x08#8]),
        pending := ts } := by
  unfold afterAbortProcedure
  rw [serviceRx_idle (s := afterWrites s bytes ts) rfl, ← List.append_assoc]
  rfl

/-! ## ACK followed by C -/

/-- Settles O35: the branch sets TOTAL and writes ACK; then C is written and PHASE becomes B. -/
theorem headerAcceptedLeadsToPhaseB : Obligations.HeaderAcceptedLeadsToPhaseB := by
  intro s p n hp ho hq hpl hlen hcap
  have hexec := aHeaderAccepted_eq hp ho hq hpl hlen hcap
  have hsent : s.txReady = true → exec .aHeaderAccepted s =
      .next (afterWrites { s with total := some n } [0x06#8] (.call .crq :: .enterB :: s.pending)) :=
    fun hr => hexec.trans (writeThen_ready (s := { s with total := some n }) hr _ _ _)
  refine ⟨hsent, fun hr => hexec.trans (writeThen_wait (s := { s with total := some n }) hr _ _ _),
    fun hr hscript => ?_⟩
  rw [runSteps_call hscript (hsent hr), runSteps_crq (s := { s with total := some n }) hscript hr]
  exact run_of_step (M := core)
    (step_of_pending (s := afterWrites { s with total := some n } [0x06#8, 0x43#8] []) hscript .enterB s.pending) 0

/-- Settles O43: the branch writes ACK; then C is written and PHASE becomes C. -/
theorem eotWithAllDataLeadsToPhaseC : Obligations.EotWithAllDataLeadsToPhaseC := by
  intro s t hp ho ht hall
  have hexec := bEotComplete_eq hp ho ht hall
  have hsent : s.txReady = true → exec .bEotComplete s =
      .next (afterWrites s [0x06#8] (.call .crq :: .enterC :: s.pending)) :=
    fun hr => hexec.trans (writeThen_ready hr _ _ _)
  refine ⟨by simp [selectBranch, hp, ho, ht, hall], hsent, fun hr => hexec.trans (writeThen_wait hr _ _ _),
    fun hr hscript => ?_⟩
  rw [runSteps_call hscript (hsent hr), runSteps_crq hscript hr]
  exact run_of_step (M := core)
    (step_of_pending (s := afterWrites s [0x06#8, 0x43#8] []) hscript .enterC s.pending) 0

/-- Settles O44: the branch writes ACK; then C is written, the abort procedure runs, the report is empty, and `fail` ends
the session. -/
theorem eotWithTooLittleDataFails : Obligations.EotWithTooLittleDataFails := by
  intro s t hp ho ht hshort
  have hexec := bEotShort_eq hp ho ht hshort
  have hsent : s.txReady = true → exec .bEotShort s = .next (afterWrites s [0x06#8]
      (.call .crq :: .call .abortProcedure :: .call (.report .dataShort) :: .call (.fail .dataShort) :: s.pending)) :=
    fun hr => hexec.trans (writeThen_ready hr _ _ _)
  refine ⟨by simp [selectBranch, hp, ho, ht, Nat.not_le.2 hshort], hsent,
    fun hr => hexec.trans (writeThen_wait hr _ _ _), fun hr hscript htext => ?_⟩
  have hbusy : s.phase ≠ .idle := by simp [hp]
  rw [runSteps_call hscript (hsent hr), runSteps_crq hscript hr]
  refine (runSteps_abortReportFail (s := afterWrites s [0x06#8, 0x43#8] []) hscript hr hbusy htext s.pending).trans ?_
  rw [afterAbortProcedure_afterWrites]
  rfl

/-! ## NAK and a discard -/

/-- Settles O45: the branch writes NAK; then the discard runs. -/
theorem unexpectedSequenceIsRefused : Obligations.UnexpectedSequenceIsRefused := by
  intro s q hp ho hq hne
  have hexec := bOkWrongSeq_eq hp ho hq hne
  have hsent : s.txReady = true → exec .bOkWrongSeq s =
      .next (afterWrites s [0x15#8] (.call .discardInput :: .call .phaseBStep :: s.pending)) :=
    fun hr => hexec.trans (writeThen_ready hr _ _ _)
  refine ⟨hsent, fun hr => hexec.trans (writeThen_wait hr _ _ _), fun hr hscript => ?_⟩
  rw [runSteps_call hscript (hsent hr)]
  exact runSteps_call (s := afterWrites s [0x15#8] []) hscript rfl 0

/-! ## The abort procedure and a failure -/

/-- The five rows, and their one reaction (R157, R168, R170, R175, R176). -/
theorem exec_abortingBranch {e : Instr × Phase × RecvOutcome × FailCause} (he : e ∈ abortingBranches) {s : State}
    (hp : s.phase = e.2.1) (ho : s.outcome = e.2.2.1) : exec e.1 s = abortAndFail e.2.2.2 s := by
  simp only [abortingBranches, List.mem_cons, List.not_mem_nil, or_false] at he
  rcases he with rfl | rfl | rfl | rfl | rfl <;> exact onBranch_eq hp ho _

/-- None of the five belongs to PHASE = IDLE. -/
theorem abortingBranch_phase : ∀ e ∈ abortingBranches, e.2.1 ≠ .idle := by decide

/-- Settles O37: the five rows share their reaction, and its run ends the session. -/
theorem protocolErrorsAndTimeoutsAbort : Obligations.ProtocolErrorsAndTimeoutsAbort := by
  intro e he s hp ho
  have hexec := exec_abortingBranch he hp ho
  have hbusy : s.phase ≠ .idle := hp ▸ abortingBranch_phase e he
  exact ⟨hexec, fun hr hscript => runSteps_abortAndFail hscript hr hbusy hexec⟩

theorem overruns_eq_true {r t : Nat} {z : PktSize} : overruns r z t = true ↔ t < r + z.toNat := by
  simp [overruns]

/-- Settles O38: the packet is selected as an overrun, whose reaction has no write of ACK and no copy. -/
theorem overrunAborts : Obligations.OverrunAborts := by
  intro s t hp ho hq ht hover
  have hov := overruns_eq_true.2 hover
  have hexec : exec .bOkOverrun s = abortAndFail .dataOverrun s :=
    (onOk_eq hp ho hq _).trans ((withTotal_eq ht _).trans (onlyIf_eq (by simp [hov]) _))
  have hbusy : s.phase ≠ .idle := by simp [hp]
  exact ⟨by simp [selectBranch, hp, ho, hq, ht, hov], hexec,
    fun hr hscript => runSteps_abortAndFail hscript hr hbusy hexec⟩

end Sys2Proof.Machine
end

section
/-! SUPPORT. The Packet Receiver in the leading position and at a complete body (R130 to R143). -/

namespace Sys2Proof.Machine

/-! ## The leading position -/

/-- Settles O20: the call tests RX_STATE, then loads the tolerance and awaits a leading byte. -/
theorem receiveBegins : Obligations.ReceiveBegins :=
  fun _ _ => ⟨fun hx => if_pos hx, fun hx => if_neg hx⟩

/-- Settles O21: both tags begin a body, of their size. -/
theorem startTagsOpenTheBody : Obligations.StartTagsOpenTheBody := fun _ hx =>
  ⟨inTagPosition_eq hx (openBody .short), inTagPosition_eq hx (openBody .long), rfl, rfl,
    fun b => ⟨read_write_same _ 0 b, fun _ ha => read_write_other _ b ha⟩⟩

/-- Settles O22: the mark ends the call. -/
theorem eotReturnsAtOnce : Obligations.EotReturnsAtOnce :=
  fun _ hx => inTagPosition_eq hx (finishReceive .endOfTransfer)

theorem exec_can {s : State} (hx : s.rxState = .tag) : exec .can s = .next (cancelByte s) := inTagPosition_eq hx _

theorem cancelByte_abort {s : State} (h : s.tolRem = 0) : cancelByte s = finishReceive .abort s := if_pos h

/-- A tolerated cancel byte costs one, and a fresh leading byte is read (R135). -/
theorem cancelByte_tolerated {s : State} (h : s.tolRem ≠ 0) :
    cancelByte s = (beginRead { s with tolRem := s.tolRem - 1 }).push [.rx] := if_neg h

theorem tolerance_pred {tol : BitVec 2} (h : tol ≠ 0) : (tol - 1).toNat = tol.toNat - 1 := by
  bv_omega

/-- Settles O23: the tolerance is tested, then lowered. -/
theorem cancelByteTestsThenDecrements : Obligations.CancelByteTestsThenDecrements := by
  intro s hx
  rw [exec_can hx]
  refine ⟨fun h0 => ?_, fun h0 => ⟨?_, tolerance_pred h0⟩⟩
  · rw [cancelByte_abort h0]; rfl
  · rw [cancelByte_tolerated h0]; rfl

/-! ## A complete body -/

/-- A run is read as `bs` where its bytes are those of `bs`. -/
theorem readAll_eq_some {m : Memory} {a n : Nat} {bs : List Byte} (hlen : bs.length = n)
    (hget : ∀ i, i < n → m.read (a + i) = bs[i]?) : m.readAll a n = some bs := by
  obtain ⟨cs, hcs, hclen⟩ := readAll_isSome (m := m) n a fun i hi => by
    rw [hget i hi, List.getElem?_eq_getElem (hlen ▸ hi)]; rfl
  rw [hcs]
  congr 1
  refine List.ext_getElem? fun i => ?_
  by_cases hi : i < n
  · rw [← readAll_get hcs i hi, hget i hi]
  · rw [List.getElem?_eq_none (by omega), List.getElem?_eq_none (by omega)]

/-- A part of a run that is read whole. -/
theorem readAll_slice {m : Memory} {a n : Nat} {bs : List Byte} (h : m.readAll a n = some bs) {k j : Nat}
    (hkj : k + j ≤ n) : m.readAll (a + k) j = some ((bs.drop k).take j) := by
  have hlen := readAll_length h
  refine readAll_eq_some (by simp; omega) fun i hi => ?_
  rw [List.getElem?_take_of_lt hi, List.getElem?_drop, Nat.add_assoc, readAll_get h (k + i) (by omega)]

/-- With a packet held, the body says its sequence number and its payload (R77, R142). -/
theorem packet_of_body {t : State} {body : List Byte} (ho : t.outcome = .ok) (hx : t.rxState = .idle)
    (h : bodyBytes t = some body) :
    seqOf t = body[0]? ∧ payloadOf t = some ((body.drop 2).take t.pktSize.toNat) := by
  have hheld : packetHeld t = true := by simp [packetHeld, ho, hx]
  have hextra : Config.bodyExtra = 4 := rfl
  constructor
  · rw [seqOf, pktAt, if_pos ⟨hheld, by omega⟩]
    exact readAll_get h 0 (by omega)
  · rw [payloadOf, if_pos hheld]
    exact readAll_slice h (k := 2) (by omega)

/-- The end of a call whose body is complete (R140 to R143). -/
def checkBody (body : List Byte) (s : State) : State :=
  { s with crc := if pairValid (body.getD 0 0) (body.getD 1 0) then crc16 body else s.crc,
           outcome := classifyBody body, rxState := .idle }

/-- In RX_CHECK with the body stored, the CORE's step ends the call. -/
theorem step_checkBody {s s0 : State} {ts : List Task} {body : List Byte} (hct : coreTurn s s0)
    (hpd : s0.pending = .rx :: ts) (hx : s0.rxState = .check) (hbody : bodyBytes s0 = some body) :
    step s = .next (checkBody body { s0 with pending := ts }) := by
  rw [coreTurn_step hct, coreMove_cons hpd]
  refine (rxCheck_eq (s := { s0 with pending := ts }) hx hbody).trans ?_
  unfold checkBody
  split <;> rfl

/-- A body whose pair is right is classified by its residue (R141). -/
theorem classifyBody_of_pairValid {body : List Byte} (h : pairValid (body.getD 0 0) (body.getD 1 0) = true) :
    classifyBody body = if crc16 body = 0 then .ok else .protocolError := by
  rw [classifyBody, if_pos h, residueZero]
  simp only [beq_iff_eq]

/-- Settles O28: the step ends the call; the pair decides whether the check value is computed. -/
theorem completePacketIsClassified : Obligations.CompletePacketIsClassified := by
  intro s s0 ts seq cmpl rest hct hpd hx hbody
  refine ⟨_, step_checkBody hct hpd hx hbody, rfl, fun hpair => ?_, fun hpair => ?_, fun ho => ?_⟩
  · have hbad : ¬ pairValid seq cmpl = true := fun h => hpair (beq_iff_eq.1 h)
    exact ⟨if_neg hbad, if_neg hbad⟩
  · have hgood : pairValid seq cmpl = true := beq_iff_eq.2 hpair
    exact ⟨if_pos hgood, classifyBody_of_pairValid hgood⟩
  · exact packet_of_body ho rfl hbody

end Sys2Proof.Machine
end

section
/-! SUPPORT. A `receive` run byte by byte: the bytes it consumes, one turn for each, and how it ends (R130 to R147). -/

namespace Sys2Proof.Machine

/-- Between the call of `receive` in `s` and its end: nothing has been sent or copied, `bytes` are unread, and `ts` is
pending. -/
structure Underway (s : State) (ts : List Task) (bytes : List Byte) (u : State) : Prop where
  ring : RingOk u
  script : u.script = []
  fifo : u.hwfifo = []
  unread : ringBytes u = bytes
  pending : u.pending = ts
  txlog : u.txlog = s.txlog
  dest : u.dest = s.dest

/-- The call has ended with the Outcome `o` and `n` of the `bytes` consumed; with `Ok` they end with the packet held. -/
structure Ended (s : State) (ts : List Task) (o : RecvOutcome) (bytes : List Byte) (n : Nat) (t : State) : Prop where
  underway : Underway s ts (bytes.drop n) t
  idle : t.rxState = .idle
  outcome : t.outcome = o
  packet : o = .ok → t.pktSize.toNat + 5 ≤ n ∧ seqOf t = bytes[n - t.pktSize.toNat - 4]? ∧
    payloadOf t = some ((bytes.drop (n - t.pktSize.toNat - 2)).take t.pktSize.toNat)

/-- Some steps end the call. -/
def Ends (s : State) (ts : List Task) (o : RecvOutcome) (bytes : List Byte) (n : Nat) (u : State) : Prop :=
  ∃ k t, runSteps k u = .next t ∧ Ended s ts o bytes n t

section
variable {s u v t : State} {ts : List Task} {o : RecvOutcome} {b : Byte} {bytes : List Byte} {n : Nat}

/-- The receiver may change its own registers. -/
theorem Underway.receiver (h : Underway s ts bytes u)
    (hv : v = { u with crc := v.crc, deadline := v.deadline, pkt := v.pkt, outcome := v.outcome, rxState := v.rxState,
                       pktIdx := v.pktIdx, tolRem := v.tolRem, pktSize := v.pktSize, pending := v.pending })
    {us : List Task} (hpd : v.pending = us) : Underway s us bytes v := by
  subst hpd
  rw [hv]
  refine ⟨h.ring.congr rfl rfl rfl rfl, h.script, h.fifo, ?_, rfl, h.txlog, h.dest⟩
  rw [← h.unread]
  exact ringBytes_congr rfl rfl rfl

/-! ## Runs -/

theorem Ends.of_step (hstep : step u = .next v) (hv : Ends s ts o bytes n v) : Ends s ts o bytes n u := by
  obtain ⟨k, t, hrun, ht⟩ := hv
  exact ⟨k + 1, t, (run_of_step (M := core) hstep k).trans hrun, ht⟩

theorem Ended.ends_of_step (hstep : step u = .next t) (ht : Ended s ts o bytes n t) : Ends s ts o bytes n u :=
  .of_step hstep ⟨0, t, rfl, ht⟩

theorem Ends.of_runSteps {k : Nat} (hrun : runSteps k u = .next v) (hv : Ends s ts o bytes n v) :
    Ends s ts o bytes n u := by
  induction k generalizing u with
  | zero => injection hrun with h; exact h ▸ hv
  | succ k ih =>
    obtain ⟨w, hstep, hw⟩ := step_of_run (M := core) hrun
    exact .of_step hstep (ih hw)

/-- A byte consumed before the rest of the call counts as one more. -/
theorem Ended.cons (h : Ended s ts o bytes n t) (b : Byte) : Ended s ts o (b :: bytes) (n + 1) t where
  underway := h.underway
  idle := h.idle
  outcome := h.outcome
  packet ho := by
    obtain ⟨hle, hseq, hpayload⟩ := h.packet ho
    refine ⟨by omega, ?_, ?_⟩
    · rw [hseq, show n + 1 - t.pktSize.toNat - 4 = n - t.pktSize.toNat - 4 + 1 by omega, List.getElem?_cons_succ]
    · rw [hpayload, show n + 1 - t.pktSize.toNat - 2 = n - t.pktSize.toNat - 2 + 1 by omega, List.drop_succ_cons]

theorem Ends.cons (h : Ends s ts o bytes n u) (b : Byte) : Ends s ts o (b :: bytes) (n + 1) u := by
  obtain ⟨k, t, hrun, ht⟩ := h
  exact ⟨k, t, hrun, ht.cons b⟩

/-! ## One turn -/

/-- A turn with a byte unread takes the oldest, whatever the deadline (R116, R217). -/
theorem Underway.step_eq (h : Underway s (.rx :: ts) (b :: bytes) u) : ∃ v,
    step u = rxStep { u with pending := ts } ∧ pollRead { u with pending := ts } = .byte b v ∧
    Underway s ts bytes v ∧
    v = { u with pending := ts, hwfifo := [], ring := v.ring, ringWr := v.ringWr, ringRd := v.ringRd,
                 ringCnt := v.ringCnt } := by
  have hcount : (ringBytes u).length ≤ 4096 := by rw [ringBytes_length]; exact h.ring.count
  have hpending : (ringBytes u ++ u.hwfifo).take 4096 = b :: bytes := by
    rw [h.fifo, List.append_nil, List.take_of_length_le hcount, h.unread]
  obtain ⟨r, w, c, v, hv, hpoll, hok, hbytes⟩ := rx_poll (ts := ts) h.ring hpending
  have hstep : step u = rxStep { u with pending := ts } :=
    (coreTurn_step (.inl ⟨h.script, rfl⟩)).trans (coreMove_cons h.pending)
  refine ⟨v, hstep, hpoll, ?_, ?_⟩
  · subst hv
    exact ⟨hok, h.script, rfl, hbytes, rfl, h.txlog, h.dest⟩
  · rw [hv]

/-- In the leading position the byte taken is decoded and run (R131). -/
theorem Underway.step_leading (h : Underway s (.rx :: ts) (b :: bytes) u) (hx : u.rxState = .tag) : ∃ v,
    step u = exec (decodeLeading b) v ∧ Underway s ts bytes v ∧ v.rxState = .tag ∧ v.tolRem = u.tolRem := by
  obtain ⟨v, hstep, hpoll, hv, heq⟩ := h.step_eq
  refine ⟨v, hstep.trans (rxTag_byte hx hpoll), hv, ?_, ?_⟩ <;> rw [heq]
  exact hx

/-! ## The body -/

/-- After the tag of a packet of size `z`, with `bytes` following it, `k` body bytes have been stored (R136). -/
structure BodyStored (s : State) (ts : List Task) (z : PktSize) (bytes : List Byte) (k : Nat) (u : State) : Prop where
  underway : Underway s (.rx :: ts) (bytes.drop k) u
  size : u.pktSize = z
  index : u.pktIdx.toNat = k + 1
  stored : ∀ i, i < k → u.pkt.read (1 + i) = bytes[i]?
  position : u.rxState = if k < z.toNat + 4 then .body else .check

/-- The tag opens the body (R132, R133). -/
theorem openBody_bodyStored (h : Underway s ts bytes u) (z : PktSize) : BodyStored s ts z bytes 0 (openBody z u) where
  underway := h.receiver rfl (congrArg (Task.rx :: ·) h.pending)
  size := rfl
  index := rfl
  stored := nofun
  position := (if_pos (Nat.succ_pos _)).symm

/-- A turn in the body stores one more byte. -/
theorem BodyStored.step_next {z : PktSize} {k : Nat} (h : BodyStored s ts z bytes k u) (hk : k < z.toNat + 4)
    (hlen : k < bytes.length) : ∃ v, step u = .next v ∧ BodyStored s ts z bytes (k + 1) v := by
  obtain ⟨hunder, hsize, hindex, hstored, hposition⟩ := h
  rw [List.drop_eq_getElem_cons hlen] at hunder
  rw [if_pos hk] at hposition
  obtain ⟨v, hstep, hpoll, hv, heq⟩ := hunder.step_eq
  obtain ⟨deadline, hstore⟩ := storeBody_eq bytes[k] v
  have hextra : Config.bodyExtra = 4 := rfl
  have hz := pktSize_toNat_cases z
  have hinside : u.pktIdx.toNat ≤ u.pktSize.toNat + Config.bodyExtra := by rw [hsize]; omega
  have hvsize : v.pktSize = z := by rw [heq]; exact hsize
  have hvindex : v.pktIdx.toNat = k + 1 := by rw [heq]; exact hindex
  have hvpkt : v.pkt = u.pkt := by rw [heq]
  have hvposition : v.rxState = .body := by rw [heq]; exact hposition
  refine ⟨_, hstep.trans (rxBody_byte (s := { u with pending := ts }) hposition hinside hpoll), ?_⟩
  rw [hstore]
  refine ⟨hv.receiver rfl (congrArg (Task.rx :: ·) hv.pending), hvsize, ?_, fun i hi => ?_, ?_⟩
  · show (v.pktIdx + 1).toNat = k + 1 + 1
    rw [BitVec.toNat_add]
    simp
    omega
  · show (v.pkt.write v.pktIdx.toNat bytes[k]).read (1 + i) = _
    rw [hvindex, read_write, hvpkt]
    split
    · next hik => rw [show i = k by omega, List.getElem?_eq_getElem hlen]
    · next hik => exact hstored i (by omega)
  · show (if v.pktIdx.toNat < v.pktSize.toNat + 4 then v.rxState else .check) = _
    rw [hvindex, hvsize, hvposition]

/-- By induction on the body bytes stored. -/
theorem BodyStored.runSteps {z : PktSize} (h : BodyStored s ts z bytes 0 u) (hlen : z.toNat + 4 ≤ bytes.length)
    (k : Nat) (hk : k ≤ z.toNat + 4) : ∃ v, runSteps k u = .next v ∧ BodyStored s ts z bytes k v := by
  induction k with
  | zero => exact ⟨u, rfl, h⟩
  | succ k ih =>
    obtain ⟨v, hrun, hv⟩ := ih (by omega)
    obtain ⟨w, hstep, hw⟩ := hv.step_next (by omega) (by omega)
    exact ⟨w, runSteps_succ hrun hstep, hw⟩

/-- With the whole body stored the call ends by its classification (R140 to R143). -/
theorem BodyStored.ends {z : PktSize} (h : BodyStored s ts z bytes (z.toNat + 4) u) (hlen : z.toNat + 4 ≤ bytes.length)
    (tag : Byte) :
    Ends s ts (classifyBody (bytes.take (z.toNat + 4))) (tag :: bytes) (z.toNat + 4 + 1) u := by
  obtain ⟨hunder, rfl, _, hstored, hposition⟩ := h
  have hbody : u.pkt.readAll 1 (u.pktSize.toNat + 4) = some (bytes.take (u.pktSize.toNat + 4)) :=
    readAll_eq_some (List.length_take_of_le hlen) fun i hi => by rw [hstored i hi, List.getElem?_take_of_lt hi]
  have hcheck : u.rxState = .check := by simpa using hposition
  refine Ended.ends_of_step (step_checkBody (.inl ⟨hunder.script, rfl⟩) hunder.pending hcheck hbody)
    ⟨hunder.receiver rfl rfl, rfl, rfl, fun ho => ?_⟩
  obtain ⟨hseq, hpayload⟩ := packet_of_body (t := checkBody _ { u with pending := ts }) ho rfl hbody
  refine ⟨Nat.le_refl _, hseq.trans ?_, hpayload.trans ?_⟩
  · show _ = (tag :: bytes)[u.pktSize.toNat + 4 + 1 - u.pktSize.toNat - 4]?
    rw [show u.pktSize.toNat + 4 + 1 - u.pktSize.toNat - 4 = 1 by omega, List.getElem?_take_of_lt (by omega)]
    rfl
  · show some (List.take u.pktSize.toNat _) =
      some (((tag :: bytes).drop (u.pktSize.toNat + 4 + 1 - u.pktSize.toNat - 2)).take u.pktSize.toNat)
    rw [show u.pktSize.toNat + 4 + 1 - u.pktSize.toNat - 2 = 3 by omega, List.drop_succ_cons, List.drop_take,
      List.take_take, Nat.min_eq_left (by omega)]

/-! ## The call -/

/-- A start tag whose body is unread ends with the body's classification. -/
theorem ends_of_startTag (h : Underway s ts bytes v) (z : PktSize) (hlen : z.toNat + 4 ≤ bytes.length) (tag : Byte) :
    Ends s ts (classifyBody (bytes.take (z.toNat + 4))) (tag :: bytes) (z.toNat + 4 + 1) (openBody z v) := by
  obtain ⟨w, hrun, hw⟩ := (openBody_bodyStored h z).runSteps hlen (z.toNat + 4) (Nat.le_refl _)
  exact .of_runSteps hrun (hw.ends hlen tag)

/-- A call that ends at its leading byte, without a packet. -/
theorem ended_finishReceive (h : Underway s ts bytes v) (ho : o ≠ .ok) (b : Byte) :
    Ended s ts o (b :: bytes) 1 (finishReceive o v) :=
  ⟨h.receiver rfl h.pending, rfl, rfl, fun hok => absurd hok ho⟩

/-! ### The algorithm in one piece, by its leading byte (R132 to R137) -/

theorem leadingByte_cases (b : Byte) :
    (∃ z : PktSize, b = z.tag) ∨ b = Config.byteEOT ∨ b = Config.byteCAN ∨ b ∉ [0x01#8, 0x02#8, 0x04#8, 0x18#8] := by
  by_cases hlegal : b ∈ [0x01#8, 0x02#8, 0x04#8, 0x18#8]
  · simp only [List.mem_cons, List.not_mem_nil, or_false] at hlegal
    rcases hlegal with rfl | rfl | rfl | rfl
    · exact .inl ⟨.short, rfl⟩
    · exact .inl ⟨.long, rfl⟩
    · exact .inr (.inl rfl)
    · exact .inr (.inr (.inl rfl))
  · exact .inr (.inr (.inr hlegal))

theorem receivePiece_startTag (tol : Nat) (z : PktSize) (bytes : List Byte) :
    receivePiece tol (z.tag :: bytes) = if bytes.length < z.toNat + 4 then none
      else some (classifyBody (bytes.take (z.toNat + 4)), z.toNat + 4 + 1) := by
  cases tol <;> cases z <;> rfl

theorem receivePiece_eot (tol : Nat) (bytes : List Byte) :
    receivePiece tol (Config.byteEOT :: bytes) = some (.endOfTransfer, 1) := by
  cases tol <;> rfl

theorem receivePiece_cancel (bytes : List Byte) : receivePiece 0 (Config.byteCAN :: bytes) = some (.abort, 1) := rfl

theorem receivePiece_tolerated (k : Nat) (bytes : List Byte) :
    receivePiece (k + 1) (Config.byteCAN :: bytes) = (receivePiece k bytes).map fun r => (r.1, r.2 + 1) := rfl

theorem receivePiece_illegal (tol : Nat) (hb : b ∉ [0x01#8, 0x02#8, 0x04#8, 0x18#8]) (bytes : List Byte) :
    receivePiece tol (b :: bytes) = some (.protocolError, 1) := by
  simp only [List.mem_cons, List.not_mem_nil, or_false, not_or] at hb
  obtain ⟨hsoh, hstx, heot, hcan⟩ := hb
  cases tol <;> exact (if_neg (not_or.2 ⟨hsoh, hstx⟩)).trans ((if_neg heot).trans (if_neg hcan))

/-! ### The leading position -/

theorem exec_startTag (hx : v.rxState = .tag) (z : PktSize) :
    exec (decodeLeading z.tag) v = .next (openBody z v) := by
  cases z <;> exact inTagPosition_eq hx _

/-- By induction on the unread bytes: a tolerated cancel byte leaves the call in the leading position with one byte less,
every other leading byte settles it. -/
theorem ends_of_receivePiece (h : Underway s (.rx :: ts) bytes u) (hx : u.rxState = .tag)
    (hpiece : receivePiece u.tolRem.toNat bytes = some (o, n)) : Ends s ts o bytes n u := by
  induction bytes generalizing u n with
  | nil => rw [receivePiece] at hpiece; cases hpiece
  | cons b bytes ih =>
    obtain ⟨v, hstep, hv, hvx, hvtol⟩ := h.step_leading hx
    rw [← hvtol] at hpiece
    rcases leadingByte_cases b with ⟨z, rfl⟩ | rfl | rfl | hb
    · rw [receivePiece_startTag] at hpiece
      split at hpiece
      · cases hpiece
      · next hlen =>
        cases hpiece
        exact .of_step (hstep.trans (exec_startTag hvx z)) (ends_of_startTag hv z (Nat.le_of_not_lt hlen) _)
    · rw [receivePiece_eot] at hpiece
      cases hpiece
      exact (ended_finishReceive hv (by decide) _).ends_of_step (hstep.trans (inTagPosition_eq hvx _))
    · replace hstep : step u = .next (cancelByte v) := hstep.trans (exec_can hvx)
      by_cases h0 : v.tolRem = 0
      · rw [h0, show (0 : BitVec 2).toNat = 0 from rfl, receivePiece_cancel] at hpiece
        cases hpiece
        rw [cancelByte_abort h0] at hstep
        exact (ended_finishReceive hv (by decide) _).ends_of_step hstep
      · have htol : v.tolRem.toNat = (v.tolRem - 1).toNat + 1 := by bv_omega
        rw [htol, receivePiece_tolerated] at hpiece
        obtain ⟨⟨o', m⟩, hrest, heq⟩ := Option.map_eq_some_iff.1 hpiece
        cases heq
        rw [cancelByte_tolerated h0] at hstep
        have hlater := ih (u := (beginRead { v with tolRem := v.tolRem - 1 }).push [.rx])
          (hv.receiver rfl (congrArg (Task.rx :: ·) hv.pending)) hvx hrest
        exact .of_step hstep (hlater.cons _)
    · rw [receivePiece_illegal _ hb] at hpiece
      cases hpiece
      rw [decodeLeading_illegal hb] at hstep
      exact (ended_finishReceive hv (by decide) _).ends_of_step (hstep.trans (exec_illegal hvx b))

end

/-- Settles O29: the call loads the tolerance and awaits the leading byte; the bytes then settle it. -/
theorem receiveIsTheOnePieceAlgorithm : Obligations.ReceiveIsTheOnePieceAlgorithm := by
  intro s tol ts o n hring hscript hfifo hx hpd hpiece
  have hbegin : step s = .next (beginReceive tol { s with pending := ts }) := by
    rw [coreTurn_step (.inl ⟨hscript, rfl⟩), coreMove_cons hpd]
    exact if_pos hx
  have hcalled : Underway s (.call (.receive tol) :: ts) (ringBytes s) s := ⟨hring, hscript, hfifo, rfl, hpd, rfl, rfl⟩
  obtain ⟨k, t, hrun, hend⟩ : Ends s ts o (ringBytes s) n s :=
    .of_step hbegin (ends_of_receivePiece (hcalled.receiver rfl rfl) rfl hpiece)
  obtain ⟨hunder, hidle, hout, hpacket⟩ := hend
  exact ⟨k, t, hrun, hidle, hout, hunder.pending, hunder.ring, hunder.unread, hunder.txlog, hunder.dest, hpacket⟩

end Sys2Proof.Machine
end

section
/-! SUPPORT. The selection of a header packet's branch, the branches that fail a session without a first write, and the
session's ends (R152 to R156, R160, R169, R174, R177, R179, R180, R196). -/

namespace Sys2Proof.Machine

section
variable {s : State} {p : List Byte}

/-! ## The header's three-way selection -/

theorem selectHeader_malformed (hpl : payloadOf s = some p) (hlen : declaredLength s.par.lenW p = none) :
    selectHeader s = .ok .aHeaderMalformed := by
  simp [selectHeader, hpl, hlen]

theorem selectHeader_exceeds {n : Nat} (hpl : payloadOf s = some p) (hlen : declaredLength s.par.lenW p = some n)
    (hcap : s.par.destCap < n) : selectHeader s = .ok .aLenExceedsCap := by
  simp [selectHeader, hpl, hlen, hcap]

theorem selectHeader_accepted {n : Nat} (hpl : payloadOf s = some p) (hlen : declaredLength s.par.lenW p = some n)
    (hcap : n ≤ s.par.destCap) : selectHeader s = .ok .aHeaderAccepted := by
  simp [selectHeader, hpl, hlen, Nat.not_lt.2 hcap]

/-! ## The two failures of a header -/

theorem aHeaderMalformed_eq (hp : s.phase = .a) (ho : s.outcome = .ok) (hq : seqOf s = some 0)
    (hpl : payloadOf s = some p) (hlen : declaredLength s.par.lenW p = none) :
    exec .aHeaderMalformed s = abortAndFail .hsBadHeader s :=
  (onHeader_eq hp ho hq hpl _).trans (onlyIf_eq (Option.isNone_iff_eq_none.2 hlen) _)

theorem aLenExceedsCap_eq {n : Nat} (hp : s.phase = .a) (ho : s.outcome = .ok) (hq : seqOf s = some 0)
    (hpl : payloadOf s = some p) (hlen : declaredLength s.par.lenW p = some n) (hcap : s.par.destCap < n) :
    exec .aLenExceedsCap s = abortAndFail .hsLenExceedsCap s := by
  show execALenExceedsCap s = _
  rw [execALenExceedsCap, onHeader_eq hp ho hq hpl, hlen]
  exact onlyIf_eq (decide_eq_true hcap) _

/-! ## A packet in Phase C -/

theorem cOk_aborts (hp : s.phase = .c) (ho : s.outcome = .ok) (habort : s.par.termOkAborts = true) :
    exec .cOk s = abortAndFail .termUnexpectedPacket s :=
  (onBranch_eq hp ho _).trans (if_pos habort)

theorem cOk_fails (hp : s.phase = .c) (ho : s.outcome = .ok) (habort : s.par.termOkAborts = false) :
    exec .cOk s = .next (failSession .termUnexpectedPacket s) :=
  (onBranch_eq hp ho _).trans (if_neg (ne_true_of_eq_false habort))

/-! ## The hand-over of RESULT -/

theorem exec_done_result {r : SessionResult} (hp : s.phase = .idle) (hr : s.result = some r) :
    exec .done s = .next (handResult r s) := by
  show execDone s = _
  rw [execDone, hp, hr]

/-- Without a RESULT `done` stops in every phase (notes/assumptions/17.md). -/
theorem exec_done_noResult (hr : s.result = none) : exec .done s = .fault .resultNoValue := by
  show execDone s = _
  rw [execDone, hr]
  cases s.phase <;> rfl

end

/-- Settles O32: the dispatch goes to the header, and the declared length decides among its three rows. -/
theorem headerIsParsedThenSorted : Obligations.HeaderIsParsedThenSorted :=
  fun _ _ hp ho hq hpl =>
    ⟨selectBranch_of_header hp ho hq, onHeader_eq hp ho hq hpl _, selectHeader_malformed hpl,
      fun _ => selectHeader_exceeds hpl, fun _ => selectHeader_accepted hpl⟩

/-- Settles O39: under its condition each row is the abort procedure and a failure, or the failure alone (D24). -/
theorem decidedFailures : Obligations.DecidedFailures :=
  fun _ =>
    ⟨fun hp ho => onBranch_eq hp ho _,
      fun _ hp ho hq hpl =>
        ⟨aHeaderMalformed_eq hp ho hq hpl, fun _ => aLenExceedsCap_eq hp ho hq hpl⟩,
      cOk_aborts, cOk_fails⟩

/-- Settles O41: both rows are the failure alone. -/
theorem laterAbortsFailAtOnce : Obligations.LaterAbortsFailAtOnce :=
  fun _ ho => ⟨fun hp => onBranch_eq hp ho _, fun hp => onBranch_eq hp ho _⟩

/-- Settles O49: `fail` and `succeed` test PHASE, `done` reads PHASE and RESULT; a report has no condition. -/
theorem sessionEndsComplete : Obligations.SessionEndsComplete :=
  fun _ =>
    ⟨fun _ => rfl, fun _ hp => if_neg hp, fun _ hp => if_pos hp, fun _ => exec_done_result, exec_done_noResult⟩

end Sys2Proof.Machine
end

section
/-! SUPPORT. What a step that records a failure leaves as it was: the bytes written and the transfer's registers (R180,
R220). -/

namespace Sys2Proof.Machine

/-- What a failing operation writes none of: the HOST's memory, EXP_SEQ, RCVD, TOTAL (R220). -/
def State.progress (s : State) : Memory × Byte × Nat × Option Nat := (s.dest, s.expSeq, s.rcvd, s.total)

/-- RESULT stays, or becomes no failure, or the transfer's progress stays. -/
def FailsPrecisely (s t : State) : Prop :=
  t.result = s.result ∨ t.result ≠ some .failure ∨ t.progress = s.progress

section
variable {s t : State}

theorem FailsPrecisely.same (h : t.result = s.result) : FailsPrecisely s t := .inl h

theorem FailsPrecisely.noFailure (h : t.result ≠ some .failure) : FailsPrecisely s t := .inr (.inl h)

theorem FailsPrecisely.precise (h : t.progress = s.progress) : FailsPrecisely s t := .inr (.inr h)

theorem failsPrecisely_next (h : t.result = s.result) : Answers (FailsPrecisely s) (.next t) := answers_next.2 (.same h)

/-- `fail` alone records a failure, and writes RESULT, FAIL_CAUSE and PHASE (R180, R219). -/
theorem failSession_failsPrecisely (s : State) (c : FailCause) :
    Answers (FailsPrecisely s) (.next (failSession c s)) :=
  answers_next.2 (.precise rfl)

/-! ## Operations that keep RESULT -/

theorem result_of_outsideReceiver (h : t.outsideReceiver = s.outsideReceiver) : t.result = s.result :=
  (ReceiveTurn.of_receiver h).result

theorem readTurn_result (s : State) : Answers (·.result = s.result) (readTurn s) := by
  unfold readTurn
  rcases pollRead_cases s with ⟨b, h⟩ | h | h | h <;> rw [h]
  · exact answers_next.2 rfl
  · exact answers_next.2 rfl
  · exact answers_next.2 rfl
  · exact answers_fault _

theorem receiveStep_result (p : Phase) (tol : BitVec 2) (s : State) :
    Answers (·.result = s.result) (receiveStep p tol s) :=
  answers_ite (fun _ => answers_ite (fun _ => answers_next.2 rfl) fun _ => answers_fault _) fun _ => answers_fault _

theorem rxTag_result (s : State) : Answers (·.result = s.result) (rxTag s) := by
  unfold rxTag
  rcases pollRead_cases s with ⟨b, h⟩ | h | h | h <;> rw [h]
  · exact (leading_outsideReceiver b _).mono fun _ he => (result_of_outsideReceiver he).trans (serviceRx_result s)
  · exact answers_next.2 rfl
  · exact answers_next.2 rfl
  · exact answers_fault _

theorem rxBody_result (s : State) : Answers (·.result = s.result) (rxBody s) := by
  refine answers_ite (fun _ => ?_) fun _ => answers_next.2 rfl
  rcases pollRead_cases s with ⟨b, h⟩ | h | h | h <;> rw [h]
  · exact answers_next.2 ((result_of_outsideReceiver (storeBody_outsideReceiver b _)).trans (serviceRx_result s))
  · exact answers_next.2 rfl
  · exact answers_next.2 rfl
  · exact answers_fault _

/-- A turn of a `receive` keeps RESULT, in whatever form the ring is (R131). -/
theorem rxStep_result (s : State) : Answers (·.result = s.result) (rxStep s) := by
  unfold rxStep
  split
  · exact answers_next.2 rfl
  · exact rxTag_result s
  · exact rxBody_result s
  · exact (rxCheck_outsideReceiver s).mono fun _ => result_of_outsideReceiver

theorem ringPop_result (s : State) : Answers (·.result = s.result) (exec .ringPop s) := by
  show Answers _ (execRingPop s)
  unfold execRingPop
  split
  · next hpop =>
    obtain ⟨rd, cnt, rfl⟩ := ringPop_ok hpop
    exact answers_next.2 rfl
  · exact answers_fault _

theorem done_result (s : State) : Answers (·.result = s.result) (exec .done s) := by
  show Answers _ (execDone s)
  unfold execDone
  split
  · exact answers_next.2 rfl
  · exact answers_fault _

theorem copyByte_result (i : Nat) (s : State) : Answers (·.result = s.result) (copyByte i s) := fun t ht => by
  obtain ⟨b, base, _, _, _, rfl⟩ := copyByte_next ht
  unfold afterCopied
  split <;> rfl

/-! ## The instructions -/

/-- A write waits, or sends its byte and goes on to a state with the same RESULT. -/
theorem writeThen_failsPrecisely {b : Byte} {i : Instr} {k : State → State} (hk : ∀ u, (k u).result = u.result) :
    Answers (FailsPrecisely s) (writeThen b i (fun u => .next (k u)) s) :=
  answers_writeThen (.same rfl) (failsPrecisely_next (hk _))

/-- The rows that record a failure do it by `fail`'s own write; the others keep RESULT or write no failure to it. -/
theorem exec_failsPrecisely (i : Instr) (s : State) : Answers (FailsPrecisely s) (exec i s) := by
  have fails := failSession_failsPrecisely s
  cases i with
  | soh | stx | eot | illegal => exact answers_inTagPosition fun _ => .same rfl
  | can => exact answers_inTagPosition fun _ => .same (result_of_outsideReceiver (cancelByte_outsideReceiver s))
  | ack | nak | crq | canTx | bs | writeByte => exact writeThen_failsPrecisely fun _ => rfl
  | abortSeq | crc16 | ringPush | serviceRx | discardInput | abortProcedure | report | hwInit =>
    exact failsPrecisely_next rfl
  | ringPop => exact (ringPop_result s).mono fun _ => .same
  | readByte timeout => exact (readTurn_result (startRead timeout s)).mono fun _ => .same
  | receive | phaseAAttempt => exact answers_ite (fun _ => failsPrecisely_next rfl) fun _ => answers_fault _
  | parseLen => exact answers_ite (fun _ => failsPrecisely_next rfl) fun _ => failsPrecisely_next rfl
  | phaseBStep | phaseCStep => exact (receiveStep_result _ _ s).mono fun _ => .same
  | succeed => exact answers_ite (fun _ => answers_next.2 (.noFailure nofun)) fun _ => answers_fault _
  | fail c => exact answers_ite (fun _ => answers_fault _) fun _ => fails c
  | start => exact answers_ite (fun _ => answers_next.2 (.noFailure nofun)) fun _ => failsPrecisely_next rfl
  | done => exact (done_result s).mono fun _ => .same
  | reset => exact answers_next.2 (.noFailure nofun)
  | aOkSeq0 => exact answers_onHeader fun _ _ _ _ _ => failsPrecisely_next rfl
  | aHeaderAccepted =>
    refine answers_onHeader fun _ _ _ _ _ => ?_
    split
    · exact answers_fault _
    · exact answers_onlyIf fun _ => answers_writeThen (.same rfl) (failsPrecisely_next rfl)
  | aHeaderMalformed => exact answers_onHeader fun _ _ _ _ _ => answers_onlyIf fun _ => failsPrecisely_next rfl
  | aLenExceedsCap =>
    refine answers_onHeader fun _ _ _ _ _ => ?_
    split
    · exact answers_fault _
    · exact answers_onlyIf fun _ => failsPrecisely_next rfl
  | aProtocolError | aEndOfTransfer | aTimeout | bProtocolError | bTimeout | cProtocolError | cTimeout =>
    exact answers_onBranch fun _ _ => failsPrecisely_next rfl
  | aAbort => exact answers_onBranch fun _ _ => answers_writeThen (.same rfl) (answers_next.2 (.precise rfl))
  | aOkSeqNonzero | bOkWrongSeq =>
    exact answers_onOk fun _ _ _ _ => answers_onlyIf fun _ => writeThen_failsPrecisely fun _ => rfl
  | bEotComplete | bEotShort =>
    exact answers_onBranch fun _ _ => answers_withTotal fun _ _ => answers_onlyIf fun _ =>
      writeThen_failsPrecisely fun _ => rfl
  | bOkOverrun =>
    exact answers_onOk fun _ _ _ _ => answers_withTotal fun _ _ => answers_onlyIf fun _ => failsPrecisely_next rfl
  | bOkAccept =>
    exact answers_onOk fun _ _ _ _ => answers_withTotal fun _ _ => answers_onlyIf fun _ =>
      writeThen_failsPrecisely beginCopy_result
  | bAbort | cAbort => exact answers_onBranch fun _ _ => fails _
  | cEndOfTransfer =>
    exact answers_onBranch fun _ _ => answers_withTotal fun _ _ =>
      answers_writeThen (.same rfl) (answers_next.2 (.noFailure nofun))
  | cOk => exact answers_onBranch fun _ _ => answers_ite (fun _ => failsPrecisely_next rfl) fun _ => fails _

/-! ## Every step -/

theorem runSelected_failsPrecisely (r : Except Fault Instr) (s : State) :
    Answers (FailsPrecisely s) (runSelected r s) := by
  cases r with
  | error f => exact answers_fault f
  | ok i => exact exec_failsPrecisely i s

/-- The copy writes the HOST's memory and RCVD, and keeps RESULT. -/
theorem runTask_failsPrecisely (u : Task) (s : State) : Answers (FailsPrecisely s) (runTask u s) := by
  cases u with
  | call i => exact exec_failsPrecisely i s
  | readPoll => exact (readTurn_result s).mono fun _ => .same
  | rx => exact (rxStep_result s).mono fun _ => .same
  | dispatch | header => exact runSelected_failsPrecisely _ s
  | copy i => exact (copyByte_result i s).mono fun _ => .same
  | enterB | enterC => exact failsPrecisely_next rfl

theorem coreMove_failsPrecisely (s : State) : Answers (FailsPrecisely s) (coreMove s) := by
  cases hpd : s.pending with
  | nil =>
    rw [coreMove_nil hpd]
    exact failsPrecisely_next rfl
  | cons u ts =>
    rw [coreMove_cons hpd]
    exact runTask_failsPrecisely u { s with pending := ts }

/-- Of the environment's own moves the HOST's alone change RESULT, by a start or a reset. -/
theorem playEvent_failsPrecisely (e : Event) (s : State) : Answers (FailsPrecisely s) (playEvent e s) := by
  have stays : Answers (FailsPrecisely s) (.next s) := failsPrecisely_next rfl
  cases e with
  | core => exact coreMove_failsPrecisely s
  | service | tick | peerSend | lineLose | lineAlter | txReady => exact failsPrecisely_next rfl
  | rxArrive lost =>
    obtain ⟨line, fifo, he⟩ := rxArrive_eq lost s
    rw [playEvent, he]
    exact failsPrecisely_next rfl
  | hostStart => exact answers_ite (fun _ => exec_failsPrecisely _ s) fun _ => stays
  | hostLoop =>
    refine answers_ite (fun _ => ?_) fun _ => stays
    split
    · exact exec_failsPrecisely _ s
    · exact stays
  | hostReset => exact exec_failsPrecisely .reset s
  | hostWrite => exact answers_ite (fun _ => failsPrecisely_next rfl) fun _ => stays

theorem step_failsPrecisely (s : State) : Answers (FailsPrecisely s) (step s) := by
  unfold step stepOnce
  split
  · exact coreMove_failsPrecisely s
  · next e es _ => exact playEvent_failsPrecisely e { s with script := es }

end

/-- Settles O60: a step that changes RESULT to a failure is one of `fail`'s, which keeps the transfer's progress. -/
theorem failingStepsArePrecise : Obligations.FailingStepsArePrecise := by
  intro s t hstep hne hfail
  rcases step_failsPrecisely s t hstep with hsame | hno | hkept
  · exact absurd hsame hne
  · exact absurd hfail hno
  · simp only [State.progress, Prod.mk.injEq] at hkept
    exact hkept

end Sys2Proof.Machine
end
